-- ==== Sys2Proof/Word.lean ====
section
/-! DEFINITION. The word types of the CHIP-8 core (spec/00_scope.md R10-R12): every value is unsigned and wraps. -/

namespace Sys2Proof

/-- One memory byte or general register value (R10, `V_WIDTH`). -/
abbrev Byte := BitVec 8

/-- An instruction word, the program counter, the index register or a return address (R10). -/
abbrev Word := BitVec 16

/-- A nibble: the X, Y and N fields, a register index, a key index (R11, R71). -/
abbrev Nibble := BitVec 4

/-- The NNN field (R71). -/
abbrev Addr12 := BitVec 12

end Sys2Proof
end

