-- ==== Sys2Proof/Syntax.lean ====
section
/-! DEFINITION. The instruction set: one constructor per row of spec/opcode_table.json, in the table's order (R80).
`Unknown(w)` of R79 is no instruction of the table: the decoder rejects it by name (Decode.lean). -/

namespace Sys2Proof

/-- The 35 instructions of R80, with the fields of R71 as their operands. -/
inductive Instr where
  /-- 00E0: clear the framebuffer (R210). -/
  | cls
  /-- 00EE: return from subroutine (R162). -/
  | ret
  /-- 0NNN: the historical machine-code call, which raises UnknownOpcode (R161). -/
  | sys (nnn : Addr12)
  /-- 1NNN: jump (R163). -/
  | jp (nnn : Addr12)
  /-- 2NNN: call subroutine (R164). -/
  | call (nnn : Addr12)
  /-- 3XKK: skip if `V[X] = KK` (R166). -/
  | seImm (x : Nibble) (kk : Byte)
  /-- 4XKK: skip if `V[X] != KK` (R167). -/
  | sneImm (x : Nibble) (kk : Byte)
  /-- 5XY0: skip if `V[X] = V[Y]` (R168). -/
  | seReg (x y : Nibble)
  /-- 6XKK: load an immediate (R132). -/
  | ldImm (x : Nibble) (kk : Byte)
  /-- 7XKK: add an immediate (R133). -/
  | addImm (x : Nibble) (kk : Byte)
  /-- 8XY0: copy a register (R134). -/
  | ldReg (x y : Nibble)
  /-- 8XY1: bitwise OR (R135). -/
  | or (x y : Nibble)
  /-- 8XY2: bitwise AND (R136). -/
  | and (x y : Nibble)
  /-- 8XY3: bitwise exclusive OR (R137). -/
  | xor (x y : Nibble)
  /-- 8XY4: add with carry out (R138). -/
  | addReg (x y : Nibble)
  /-- 8XY5: subtract, VF = no borrow (R139). -/
  | sub (x y : Nibble)
  /-- 8XY6: shift right by one (R140). -/
  | shr (x y : Nibble)
  /-- 8XY7: reverse subtract, VF = no borrow (R141). -/
  | subn (x y : Nibble)
  /-- 8XYE: shift left by one (R142). -/
  | shl (x y : Nibble)
  /-- 9XY0: skip if `V[X] != V[Y]` (R169). -/
  | sneReg (x y : Nibble)
  /-- ANNN: set the index register (R190). -/
  | ldI (nnn : Addr12)
  /-- BNNN: jump with offset (R165). -/
  | jpOff (nnn : Addr12)
  /-- CXKK: random byte under a mask (R230). -/
  | rnd (x : Nibble) (kk : Byte)
  /-- DXYN: XOR a sprite onto the framebuffer (R212). -/
  | drw (x y n : Nibble)
  /-- EX9E: skip if the key in `V[X]` is pressed (R231). -/
  | skp (x : Nibble)
  /-- EXA1: skip if the key in `V[X]` is not pressed (R232). -/
  | sknp (x : Nibble)
  /-- FX07: read the delay timer (R233). -/
  | ldFromDt (x : Nibble)
  /-- FX0A: wait for a key press (R234). -/
  | ldK (x : Nibble)
  /-- FX15: set the delay timer (R235). -/
  | ldDt (x : Nibble)
  /-- FX18: set the sound timer (R236). -/
  | ldSt (x : Nibble)
  /-- FX1E: add a register to the index (R191). -/
  | addI (x : Nibble)
  /-- FX29: point `I` at the glyph of a digit (R192). -/
  | ldF (x : Nibble)
  /-- FX33: store the BCD digits of a register (R193). -/
  | ldB (x : Nibble)
  /-- FX55: store registers V0 to VX (R194). -/
  | ldStore (x : Nibble)
  /-- FX65: load registers V0 to VX (R195). -/
  | ldLoad (x : Nibble)
  deriving DecidableEq, Repr

end Sys2Proof
end

