-- ==== Sys2Proof/WellFormed.lean ====
section
/-! DEFINITION. Which terms of Instr are instructions of the machine: those some word decodes to. The operand widths are in
the types, so one check is left: 0NNN excludes the words of 00E0 and 00EE, which are decoded first (R75, R161). -/

namespace Sys2Proof

/-- The 12 low bits of 00E0, which are no operand of SYS (R75). -/
def clsTail : Addr12 := 0x0E0#12

/-- The 12 low bits of 00EE, which are no operand of SYS (R75). -/
def retTail : Addr12 := 0x0EE#12

/-- `i` is the instruction of some word. -/
def wellFormed (i : Instr) : Bool :=
  match i with
  | .sys nnn => nnn != clsTail && nnn != retTail
  | .cls | .ret | .jp _ | .call _ | .seImm _ _ | .sneImm _ _ | .seReg _ _ | .ldImm _ _ | .addImm _ _
  | .ldReg _ _ | .or _ _ | .and _ _ | .xor _ _ | .addReg _ _ | .sub _ _ | .shr _ _ | .subn _ _ | .shl _ _
  | .sneReg _ _ | .ldI _ | .jpOff _ | .rnd _ _ | .drw _ _ _ | .skp _ | .sknp _ | .ldFromDt _ | .ldK _
  | .ldDt _ | .ldSt _ | .addI _ | .ldF _ | .ldB _ | .ldStore _ | .ldLoad _ => true

end Sys2Proof
end

