-- ==== Sys2Proof/Decode.lean ====
section
/-! DEFINITION. The decoder of R80, total on every word, and the encoder written from the same encodings (R71, R72, R80). -/

namespace Sys2Proof

/-- `w[15:12]`, the family (R71). -/
def opField (w : Word) : Nibble := w.extractLsb' 12 4

/-- `w[11:8]`, the register index X (R71). -/
def xField (w : Word) : Nibble := w.extractLsb' 8 4

/-- `w[7:4]`, the register index Y (R71). -/
def yField (w : Word) : Nibble := w.extractLsb' 4 4

/-- `w[3:0]`, the nibble N (R71). -/
def nField (w : Word) : Nibble := w.extractLsb' 0 4

/-- `w[7:0]`, the immediate byte KK (R71). -/
def kkField (w : Word) : Byte := w.extractLsb' 0 8

/-- `w[11:0]`, the address NNN (R71). -/
def nnnField (w : Word) : Addr12 := w.extractLsb' 0 12

/-- The big-endian word of two bytes: the byte at the lower address is bits 15:8 (R54, R56). -/
def wordOfBytes (hi lo : Byte) : Word := hi ++ lo

/-- The byte of `w` that stands at the lower address (R56). -/
def highByte (w : Word) : Byte := w.extractLsb' 8 8

/-- The byte of `w` that stands at the higher address (R56). -/
def lowByte (w : Word) : Byte := w.extractLsb' 0 8

/-- Why the decoder gives no instruction. -/
inductive DecodeError where
  /-- `Unknown(w)`: no encoding of the opcode map matches `w` (R79). Executing it raises UnknownOpcode (R251). -/
  | unknown (w : Word)
  deriving DecidableEq, Repr

/-- R80, line by line: the first matching line wins. -/
def decode (w : Word) : Except DecodeError Instr :=
  if w = 0x00E0#16 then .ok .cls
  else if w = 0x00EE#16 then .ok .ret
  else if opField w = 0x0#4 then .ok (.sys (nnnField w))
  else if opField w = 0x1#4 then .ok (.jp (nnnField w))
  else if opField w = 0x2#4 then .ok (.call (nnnField w))
  else if opField w = 0x3#4 then .ok (.seImm (xField w) (kkField w))
  else if opField w = 0x4#4 then .ok (.sneImm (xField w) (kkField w))
  else if opField w = 0x5#4 ∧ nField w = 0x0#4 then .ok (.seReg (xField w) (yField w))
  else if opField w = 0x6#4 then .ok (.ldImm (xField w) (kkField w))
  else if opField w = 0x7#4 then .ok (.addImm (xField w) (kkField w))
  else if opField w = 0x8#4 ∧ nField w = 0x0#4 then .ok (.ldReg (xField w) (yField w))
  else if opField w = 0x8#4 ∧ nField w = 0x1#4 then .ok (.or (xField w) (yField w))
  else if opField w = 0x8#4 ∧ nField w = 0x2#4 then .ok (.and (xField w) (yField w))
  else if opField w = 0x8#4 ∧ nField w = 0x3#4 then .ok (.xor (xField w) (yField w))
  else if opField w = 0x8#4 ∧ nField w = 0x4#4 then .ok (.addReg (xField w) (yField w))
  else if opField w = 0x8#4 ∧ nField w = 0x5#4 then .ok (.sub (xField w) (yField w))
  else if opField w = 0x8#4 ∧ nField w = 0x6#4 then .ok (.shr (xField w) (yField w))
  else if opField w = 0x8#4 ∧ nField w = 0x7#4 then .ok (.subn (xField w) (yField w))
  else if opField w = 0x8#4 ∧ nField w = 0xE#4 then .ok (.shl (xField w) (yField w))
  else if opField w = 0x9#4 ∧ nField w = 0x0#4 then .ok (.sneReg (xField w) (yField w))
  else if opField w = 0xA#4 then .ok (.ldI (nnnField w))
  else if opField w = 0xB#4 then .ok (.jpOff (nnnField w))
  else if opField w = 0xC#4 then .ok (.rnd (xField w) (kkField w))
  else if opField w = 0xD#4 then .ok (.drw (xField w) (yField w) (nField w))
  else if opField w = 0xE#4 ∧ kkField w = 0x9E#8 then .ok (.skp (xField w))
  else if opField w = 0xE#4 ∧ kkField w = 0xA1#8 then .ok (.sknp (xField w))
  else if opField w = 0xF#4 ∧ kkField w = 0x07#8 then .ok (.ldFromDt (xField w))
  else if opField w = 0xF#4 ∧ kkField w = 0x0A#8 then .ok (.ldK (xField w))
  else if opField w = 0xF#4 ∧ kkField w = 0x15#8 then .ok (.ldDt (xField w))
  else if opField w = 0xF#4 ∧ kkField w = 0x18#8 then .ok (.ldSt (xField w))
  else if opField w = 0xF#4 ∧ kkField w = 0x1E#8 then .ok (.addI (xField w))
  else if opField w = 0xF#4 ∧ kkField w = 0x29#8 then .ok (.ldF (xField w))
  else if opField w = 0xF#4 ∧ kkField w = 0x33#8 then .ok (.ldB (xField w))
  else if opField w = 0xF#4 ∧ kkField w = 0x55#8 then .ok (.ldStore (xField w))
  else if opField w = 0xF#4 ∧ kkField w = 0x65#8 then .ok (.ldLoad (xField w))
  else .error (.unknown w)

/-- The word of an instruction of format NNN (R72). -/
def encodeNnn (op : Nibble) (nnn : Addr12) : Word := op ++ nnn

/-- The word of an instruction of format XKK or X (R72; for format X the low byte is fixed). -/
def encodeXkk (op x : Nibble) (kk : Byte) : Word := op ++ x ++ kk

/-- The word of an instruction of format XY or XYN (R72; for format XY the low nibble is fixed). -/
def encodeXyn (op x y n : Nibble) : Word := op ++ x ++ y ++ n

/-- The word of an instruction (the match column of R80's table with the operands in the fields of R71). -/
def encode (i : Instr) : Word :=
  match i with
  | .cls => 0x00E0#16
  | .ret => 0x00EE#16
  | .sys nnn => encodeNnn 0x0#4 nnn
  | .jp nnn => encodeNnn 0x1#4 nnn
  | .call nnn => encodeNnn 0x2#4 nnn
  | .seImm x kk => encodeXkk 0x3#4 x kk
  | .sneImm x kk => encodeXkk 0x4#4 x kk
  | .seReg x y => encodeXyn 0x5#4 x y 0x0#4
  | .ldImm x kk => encodeXkk 0x6#4 x kk
  | .addImm x kk => encodeXkk 0x7#4 x kk
  | .ldReg x y => encodeXyn 0x8#4 x y 0x0#4
  | .or x y => encodeXyn 0x8#4 x y 0x1#4
  | .and x y => encodeXyn 0x8#4 x y 0x2#4
  | .xor x y => encodeXyn 0x8#4 x y 0x3#4
  | .addReg x y => encodeXyn 0x8#4 x y 0x4#4
  | .sub x y => encodeXyn 0x8#4 x y 0x5#4
  | .shr x y => encodeXyn 0x8#4 x y 0x6#4
  | .subn x y => encodeXyn 0x8#4 x y 0x7#4
  | .shl x y => encodeXyn 0x8#4 x y 0xE#4
  | .sneReg x y => encodeXyn 0x9#4 x y 0x0#4
  | .ldI nnn => encodeNnn 0xA#4 nnn
  | .jpOff nnn => encodeNnn 0xB#4 nnn
  | .rnd x kk => encodeXkk 0xC#4 x kk
  | .drw x y n => encodeXyn 0xD#4 x y n
  | .skp x => encodeXkk 0xE#4 x 0x9E#8
  | .sknp x => encodeXkk 0xE#4 x 0xA1#8
  | .ldFromDt x => encodeXkk 0xF#4 x 0x07#8
  | .ldK x => encodeXkk 0xF#4 x 0x0A#8
  | .ldDt x => encodeXkk 0xF#4 x 0x15#8
  | .ldSt x => encodeXkk 0xF#4 x 0x18#8
  | .addI x => encodeXkk 0xF#4 x 0x1E#8
  | .ldF x => encodeXkk 0xF#4 x 0x29#8
  | .ldB x => encodeXkk 0xF#4 x 0x33#8
  | .ldStore x => encodeXkk 0xF#4 x 0x55#8
  | .ldLoad x => encodeXkk 0xF#4 x 0x65#8

/-- The word an opcode-table query of `nbits` bits stands for: the bits above `nbits` are 0. -/
def tableWord (nbits w : Nat) : Word := BitVec.ofNat 16 (w % 2 ^ nbits)

/-- What the decoder reads from the table word `w`, laid out as two bytes and fetched big-endian (R54). -/
def decodeTableWord (nbits w : Nat) : Option Instr :=
  match decode (wordOfBytes (highByte (tableWord nbits w)) (lowByte (tableWord nbits w))) with
  | .ok i => some i
  | .error (.unknown _) => none

end Sys2Proof
end

