-- ==== Sys2Proof/Config.lean ====
section
/-! DEFINITION. What the host or an implementation fixes and the spec leaves open: the four quirk toggles (R3, D29) and the
byte each CXKK draws (R230, D28). Both are opaque, so a claim holds for every value of them. The parameters the spec gives
a value to are in Machine/Params.lean. -/

namespace Sys2Proof

/-- The quirk configuration: four toggles, one record, fixed for the life of a session (R3, R39, R117). -/
structure Quirks where
  /-- 8XY6 and 8XYE shift `V[X]` in place (true) or a copy of `V[Y]` (false): R131. -/
  shiftUsesSourceRegister : Bool
  /-- FX55 and FX65 add the count of registers moved to `I` (true) or leave it (false): R196. -/
  loadStoreIncrementsIndex : Bool
  /-- DXYN wraps pixels at the edges (true) or clips them (false): R212. -/
  drawWrapsAtEdges : Bool
  /-- BNNN adds `V[NNN[11:8]]` (true) or `V0` (false): R165. -/
  jumpWithOffsetUsesVx : Bool
  deriving DecidableEq, Repr, Inhabited

/-- The quirk configuration the host supplies for the `n`-th session, a session being the life of the state from one accepted
`load` to the next (R15, R117, R281). OPEN in the spec (R10, D29), so it has no value here (log entry 2). -/
opaque Config.quirks : Nat → Quirks

/-- The byte the `n`-th draw of the run gives (R230, D28). A free value: any byte, any sequence (log entry 4). -/
opaque Config.randByte : Nat → Byte

end Sys2Proof
end

