-- ==== Sys2Proof/Machine/Params.lean ====
section
/-! DEFINITION. The implementation parameters of R10 at the values this hardware takes, and the contents of memory right
after reset (R40, R41). They stand here, not in Config.lean, so that a test of the hardware can mend them. -/

namespace Sys2Proof.Machine

/-- `MEM_SIZE` (R10, R50). -/
def memSize : Nat := 4096

/-- `LOAD_ADDRESS` (R10, D19): where the ROM is loaded and the first fetch happens. -/
def loadAddress : Nat := 0x200

/-- `MAX_ROM` (R10, R60). -/
def maxRom : Nat := memSize - loadAddress

/-- `STACK_DEPTH` (R10, R31). -/
def stackDepth : Nat := 16

/-- `FONT_BASE` (R10, D18). -/
def fontBase : Nat := 0x050

/-- The bytes of a glyph, `GLYPH_SIZE` (R10). -/
def glyphSize : Nat := 5

/-- `FONT_DATA`, the glyphs 0 to 7 (R40; the spec marks the bytes as general knowledge, log entry 11). -/
def fontLow : List Byte :=
  [0xF0, 0x90, 0x90, 0x90, 0xF0] ++ [0x20, 0x60, 0x20, 0x20, 0x70] ++
  [0xF0, 0x10, 0xF0, 0x80, 0xF0] ++ [0xF0, 0x10, 0xF0, 0x10, 0xF0] ++
  [0x90, 0x90, 0xF0, 0x10, 0x10] ++ [0xF0, 0x80, 0xF0, 0x10, 0xF0] ++
  [0xF0, 0x80, 0xF0, 0x90, 0xF0] ++ [0xF0, 0x10, 0x20, 0x40, 0x40]

/-- `FONT_DATA`, the glyphs 8 to F (R40). -/
def fontHigh : List Byte :=
  [0xF0, 0x90, 0xF0, 0x90, 0xF0] ++ [0xF0, 0x90, 0xF0, 0x10, 0xF0] ++
  [0xF0, 0x90, 0xF0, 0x90, 0x90] ++ [0xE0, 0x90, 0xE0, 0x90, 0xE0] ++
  [0xF0, 0x80, 0x80, 0x80, 0xF0] ++ [0xE0, 0x90, 0x90, 0x90, 0xE0] ++
  [0xF0, 0x80, 0xF0, 0x80, 0xF0] ++ [0xF0, 0x80, 0xF0, 0x80, 0x80]

/-- `FONT_DATA`: 80 bytes (R10, R40). -/
def fontData : List Byte := fontLow ++ fontHigh

/-- What an address holds right after reset, before the ROM is copied: the font, and 0 elsewhere (R41, R281). It is also
what an address that memory does not list reads as (log entry 1). -/
def initialByte (a : Nat) : Byte :=
  if fontBase ≤ a ∧ a < fontBase + 80 then fontData.getD (a - fontBase) 0 else 0

/-- `PROTECT_LOW_MEMORY`, at the spec's default (R10, R53, D6; log entry 3). -/
def protectLowMemory : Bool := true

/-- `INDEX_ADDRESS_WRAP`, at the spec's default (R10, R55, D5; log entry 3). -/
def indexAddressWrap : Bool := false

/-- `ADD_IMMEDIATE_SETS_VF`, at the spec's default (R10, R133, D2; log entry 3). -/
def addImmediateSetsVf : Bool := false

end Sys2Proof.Machine
end

