-- ==== Sys2Proof/Machine/State.lean ====
section
/-! DEFINITION. The interpreter state of R20 as plain data, the reasons a step can stop, and the state right after reset (R41). -/

namespace Sys2Proof.Machine

/-- Memory as the cells that differ from `initialByte`, addresses strictly rising (log entry 1). -/
abbrev Memory := List Host.Cell

/-- The framebuffer: 32 rows of 64 pixels; `FB[x][y]` of R34 is pixel `x` of row `y` (log entry 10). -/
abbrev Frame := Vector (Vector Bool 64) 32

/-- The five error kinds of R250. -/
inductive ErrorKind where
  /-- Executing `Unknown(w)` or SYS (R251). -/
  | unknownOpcode
  /-- A fetch or data access outside memory, or a store below `LOAD_ADDRESS` (R252). -/
  | outOfBounds
  /-- 2NNN with 16 frames on the stack (R253). -/
  | stackOverflow
  /-- 00EE with an empty stack (R254). -/
  | stackUnderflow
  /-- `load` of more than `MAX_ROM` bytes; a reply of `load` only, never a halt (R255). -/
  | romTooLarge
  deriving DecidableEq, Repr

/-- The error record of R38 and R257. -/
structure ErrorRecord where
  /-- The error kind. -/
  kind : ErrorKind
  /-- The address of the failing instruction. -/
  pc : Word
  /-- The word fetched, or none when the fetch itself failed. -/
  opcode : Option Word
  /-- The faulting memory address for OutOfBounds, else none; unbounded, since `I + k` is (R55). -/
  addr : Option Nat
  deriving DecidableEq, Repr

/-- The driver state (R36, R100). -/
inductive Driver where
  /-- The next step runs one fetch-decode-execute cycle. -/
  | ready
  /-- An FX0A waits for a key press to put in `V[x]`. -/
  | waitingForKey (x : Nibble)
  /-- Halted-on-Error, with the error record of R38. -/
  | halted (err : ErrorRecord)
  deriving DecidableEq, Repr

/-- Every piece of state the spec gives the core (R20), and the model's own two counters. -/
structure State where
  /-- `M`, the 4096-byte memory (R50). -/
  mem : Memory
  /-- `V[0..15]`; `V[0xF]` is also the flag register (R21, R22). -/
  v : Vector Byte 16
  /-- `I`, the index register (R28). -/
  i : Word
  /-- The program counter (R24). -/
  pc : Word
  /-- The call stack, newest return address first; its length is `depth` (R30, R31, log entry 7). -/
  stack : List Word
  /-- `DT`, the delay timer (R32). -/
  dt : Byte
  /-- `ST`, the sound timer (R33). -/
  st : Byte
  /-- `FB`, the framebuffer (R34). -/
  fb : Frame
  /-- `KEY[0..15]`, true when pressed (R35). -/
  keys : Vector Bool 16
  /-- The driver state, with the error record when halted (R36, R38). -/
  drv : Driver
  /-- The key-wait latch (R37). -/
  pending : Option Nibble
  /-- The model's own: how many CXKK draws have been taken (R230, log entry 4). -/
  draws : Nat
  /-- The model's own: which session this is, each accepted `load` beginning the next (R15, R281, log entry 2). -/
  session : Nat
  deriving DecidableEq, Repr

/-- The reasons a step can stop without a next state. There are none: every failure of R250 enters Halted-on-Error, which is
a next state (R105, R256), and the spec leaves no instruction undefined (93_implementation_defined.md; log entry 5). No
meaning raises a fault; this is safe. -/
inductive Fault where
  deriving DecidableEq, Repr

/-- The reasons an instruction is refused. -/
inductive Refusal where
  /-- Raised by an arm of `exec` whose instruction has no meaning yet; no arm is left that raises it. Safe: nothing is
  claimed of a refused instruction. -/
  | notModelled (mnemonic : String)
  deriving DecidableEq, Repr

/-- What one instruction or one step answers. -/
abbrev Answer := Host.Outcome State Fault Refusal

/-- The state right after an accepted `load` of the empty ROM (R41, R281, R282): memory lists nothing, so it reads as the
font and 0; a program is loaded from outside by `load` (log entry 6). -/
def State.reset : State where
  mem := []
  v := Vector.replicate 16 0
  i := 0
  pc := BitVec.ofNat 16 loadAddress
  stack := []
  dt := 0
  st := 0
  fb := Vector.replicate 32 (Vector.replicate 64 false)
  keys := Vector.replicate 16 false
  drv := .ready
  pending := none
  draws := 0
  session := 0

end Sys2Proof.Machine
end

