-- ==== Sys2Proof/Machine/Ops.lean ====
section
/-! DEFINITION. The named operations on memory, registers, stack and framebuffer, the default advance of pc, and the entry
into Halted-on-Error. -/

namespace Sys2Proof.Machine

/-! ## Memory (20_memory.md) -/

/-- The byte memory holds at `a` (R52, for an address inside the space). -/
def Memory.read : Memory → Nat → Byte
  | [], a => initialByte a
  | (b, w) :: rest, a => if a = b then w else Memory.read rest a

/-- Memory with byte `v` at `a` (R53, for a writable address), in canonical form again. -/
def Memory.write : Memory → Nat → Byte → Memory
  | [], a, v => if v = initialByte a then [] else [(a, v)]
  | (b, w) :: rest, a, v =>
    if a < b then (if v = initialByte a then (b, w) :: rest else (a, v) :: (b, w) :: rest)
    else if a = b then (if v = initialByte a then rest else (a, v) :: rest)
    else (b, w) :: Memory.write rest a v

/-- The cells rise strictly from `lo` on, lie inside memory and differ from what an unlisted address reads as. -/
def Memory.wfFrom : Nat → Memory → Bool
  | _, [] => true
  | lo, (a, b) :: rest => decide (lo ≤ a) && decide (a < memSize) && b != initialByte a && Memory.wfFrom (a + 1) rest

/-- The canonical form of memory (log entry 1). -/
def Memory.wf (m : Memory) : Bool := Memory.wfFrom 0 m

/-- `MemRead(a, 1)` raises nothing (R52). -/
def readable (a : Nat) : Bool := decide (a < memSize)

/-- `MemWrite(a, 1, v)` raises nothing (R53); `protect` is `PROTECT_LOW_MEMORY`. -/
def writable (protect : Bool) (a : Nat) : Bool := decide (a < memSize) && !(protect && decide (a < loadAddress))

/-- The first of the addresses `ea 0`, …, `ea (n-1)` that fails the check `ok` (R55, R259: the lowest k is named). -/
def firstBad (ok : Nat → Bool) (ea : Nat → Nat) : Nat → Option Nat
  | 0 => none
  | n + 1 =>
    match firstBad ok ea n with
    | some a => some a
    | none => if ok (ea n) then none else some (ea n)

/-- Stores `f 0`, …, `f (n-1)` to `ea 0`, …, `ea (n-1)`, in that order (R193, R194). -/
def storeBytes (ea : Nat → Nat) (f : Nat → Byte) : Nat → Memory → Memory
  | 0, m => m
  | n + 1, m => (storeBytes ea f n m).write (ea n) (f n)

/-- Copies the bytes to ascending addresses from `a` on, with no check: the ROM loader's copy (R60, R281). -/
def copyBytes : List Byte → Nat → Memory → Memory
  | [], _, m => m
  | b :: bs, a, m => copyBytes bs (a + 1) (m.write a b)

/-! ## Registers and stack (10_state.md) -/

/-- The index of VF. -/
def vf : Nibble := 0xF#4

/-- `V[x]` (R21). -/
def getV (s : State) (x : Nibble) : Byte := s.v[x.toNat]'x.isLt

/-- `V[x] <- b` (R21). -/
def setV (s : State) (x : Nibble) (b : Byte) : State := { s with v := s.v.set x.toNat b x.isLt }

/-- `I <- w` (R28). -/
def setI (w : Word) (s : State) : State := { s with i := w }

/-- The call stack becomes `st` (R31). -/
def setStack (st : List Word) (s : State) : State := { s with stack := st }

/-- `DT <- b` (R32). -/
def setDt (b : Byte) (s : State) : State := { s with dt := b }

/-- `ST <- b` (R33). -/
def setSt (b : Byte) (s : State) : State := { s with st := b }

/-- `M` becomes `m` (R50). -/
def setMem (m : Memory) (s : State) : State := { s with mem := m }

/-- `FB` becomes `fb` (R34). -/
def setFb (fb : Frame) (s : State) : State := { s with fb := fb }

/-- `drv <- d`, `pending <- p`: every move of the driver sets both (R106, R234). -/
def setDriver (d : Driver) (p : Option Nibble) (s : State) : State := { s with drv := d, pending := p }

/-- One more draw taken (R230, log entry 4). -/
def countDraw (s : State) : State := { s with draws := s.draws + 1 }

/-- `V[k] <- f k` for k from 0 to n-1, in that order (R195). -/
def loadRegisters (f : Nat → Byte) : Nat → State → State
  | 0, s => s
  | n + 1, s => setV (loadRegisters f n s) (BitVec.ofNat 4 n) (f n)

/-- `pc <- next`, the default advance (R13, R24). -/
def advance (s : State) : State := { s with pc := s.pc + 2#16 }

/-- `pc <- (c ? pc + 4 : pc + 2) mod 2^16` (R166-R169, R231, R232). -/
def skipIf (c : Bool) (s : State) : State := { s with pc := if c then s.pc + 4#16 else s.pc + 2#16 }

/-- `pc <- a` (R160). -/
def jumpTo (a : Word) (s : State) : State := { s with pc := a }

/-! ## Framebuffer (R34) -/

/-- All pixels 0. -/
def blankFrame : Frame := Vector.replicate 32 (Vector.replicate 64 false)

/-- `FB[x][y]`. -/
def pixel (fb : Frame) (x : Fin 64) (y : Fin 32) : Bool := (fb[y.val]'y.isLt)[x.val]'x.isLt

/-- `FB[x][y] <- FB[x][y] XOR 1`. -/
def togglePixel (fb : Frame) (x : Fin 64) (y : Fin 32) : Frame :=
  fb.set y.val ((fb[y.val]'y.isLt).set x.val (!(pixel fb x y)) x.isLt) y.isLt

/-! ## Error entry (60_exceptions.md) -/

/-- The entry into Halted-on-Error (R105, R256): pc and all the rest keep their values, and the driver becomes
`Halted(kind, pc, opcode, addr)`. Nothing returns from it but an accepted `load` (R260, R261; `loadRom` in Driver.lean). -/
def haltWith (kind : ErrorKind) (opcode : Option Word) (addr : Option Nat) (s : State) : State :=
  { s with drv := .halted { kind := kind, pc := s.pc, opcode := opcode, addr := addr } }

/-- `raise E(info)` by the executing instruction `i` (R13): its word is the record's opcode (R257, log entry 9). -/
def raise (kind : ErrorKind) (i : Instr) (addr : Option Nat) (s : State) : State :=
  haltWith kind (some (encode i)) addr s

/-- The error record: held once, inside the driver state (R38, log entry 16). -/
def State.errorRecord (s : State) : Option ErrorRecord :=
  match s.drv with
  | .halted err => some err
  | .ready => none
  | .waitingForKey _ => none

end Sys2Proof.Machine
end

