-- ==== Sys2Proof/Machine/Flags.lean ====
section
/-! DEFINITION. Every flag the spec computes into VF (R22), and the write order of R130. -/

namespace Sys2Proof.Machine

/-- `bool(c)` as a register value (R12). -/
def flagByte (c : Bool) : Byte := if c then 1#8 else 0#8

/-- The carry of `a + b`: `bool(a + b >= 256)` (R138; R133 under its parameter). -/
def carryOut (a b : Byte) : Bool := decide (256 ≤ a.toNat + b.toNat)

/-- No borrow in `a - b`: `bool(a >= b)` (R139, R141). -/
def noBorrow (a b : Byte) : Bool := decide (b.toNat ≤ a.toNat)

/-- The bit a right shift by one moves out, `src[0]` (R140). -/
def shiftedOutRight (src : Byte) : Bool := src.getLsbD 0

/-- The bit a left shift by one moves out, `src[7]` (R142). -/
def shiftedOutLeft (src : Byte) : Bool := src.getLsbD 7

/-- `V[0xF] <- bool(c)`. -/
def setFlag (c : Bool) (s : State) : State := setV s vf (flagByte c)

/-- The result to `V[x]`, then the flag to VF, last (R130, C1). -/
def setResultAndFlag (x : Nibble) (r : Byte) (c : Bool) (s : State) : State := setFlag c (setV s x r)

end Sys2Proof.Machine
end

