-- ==== Sys2Proof/Machine/Operands.lean ====
section
/-! DEFINITION. The operand forms: immediates, addresses formed from I, the operands the quirks choose, glyphs, keys, BCD
digits and the sprite geometry. A quirk or parameter is an argument here, so that both its values can be read and tested. -/

namespace Sys2Proof.Machine

/-- The quirk configuration of the session `s` belongs to (R3, R117, R281; log entry 2). -/
def quirks (s : State) : Quirks := Config.quirks s.session

/-- `zext_16(NNN)` (R73). -/
def zext16 (nnn : Addr12) : Word := nnn.setWidth 16

/-- `ea(k)`, the address of byte `k` at `I` (R55); `wrap` is `INDEX_ADDRESS_WRAP`. -/
def effectiveAddress (wrap : Bool) (i : Word) (k : Nat) : Nat :=
  if wrap then (i.toNat + k) % memSize else i.toNat + k

/-- `ea(k)` in state `s`, under the parameter this hardware takes. -/
def ea (s : State) (k : Nat) : Nat := effectiveAddress indexAddressWrap s.i k

/-- The count of registers V0..VX, `X + 1` (R196). -/
def registerCount (x : Nibble) : Nat := x.toNat + 1

/-- `I` after FX55 or FX65 moved `count` registers (R196); `increments` is `load_store_increments_index`. -/
def indexAfter (increments : Bool) (i : Word) (count : Nat) : Word :=
  if increments then i + BitVec.ofNat 16 count else i

/-- The shift source (R131); `inPlace` is `shift_uses_source_register`. -/
def shiftSource (inPlace : Bool) (s : State) (x y : Nibble) : Byte := if inPlace then getV s x else getV s y

/-- The offset register of BNNN (R165); `usesVx` is `jump_with_offset_uses_vx`. -/
def offsetRegister (usesVx : Bool) (nnn : Addr12) : Nibble := if usesVx then nnn.extractLsb' 8 4 else 0#4

/-- `b mod 16` as an index: the digit of FX29 (R192) and the key of EX9E and EXA1 (R237). -/
def lowNibble (b : Byte) : Nibble := b.extractLsb' 0 4

/-- The address of a digit's glyph, `FONT_BASE + 5 * d` (R192). -/
def glyphAddress (d : Nibble) : Word := BitVec.ofNat 16 (fontBase + glyphSize * d.toNat)

/-- `KEY[k]` (R35). -/
def keyPressed (s : State) (k : Nibble) : Bool := s.keys[k.toNat]'k.isLt

/-- The BCD digits of `b`: hundreds, tens, ones for k = 0, 1, 2 (R193). -/
def bcdDigit (b : Byte) (k : Nat) : Byte :=
  if k = 0 then BitVec.ofNat 8 (b.toNat / 100)
  else if k = 1 then BitVec.ofNat 8 (b.toNat / 10 % 10)
  else BitVec.ofNat 8 (b.toNat % 10)

/-- The sprite's origin column, `V[X] mod 64` (R211). -/
def originColumn (b : Byte) : Nat := b.toNat % 64

/-- The sprite's origin row, `V[Y] mod 32` (R211). -/
def originRow (b : Byte) : Nat := b.toNat % 32

/-- The pixel of row byte `row` at sprite column `b`, `row[7 - b]`: bit 7 is leftmost (R211). -/
def spriteBit (row : Byte) (b : Nat) : Bool := row.getLsbD (7 - b)

/-- Where the sprite pixel at unbounded `(px, py)` lands, or none when it is clipped (R212); `wraps` is `draw_wraps_at_edges`. -/
def screenTarget (wraps : Bool) (px py : Nat) : Option (Fin 64 × Fin 32) :=
  if wraps then some (⟨px % 64, Nat.mod_lt _ (by decide)⟩, ⟨py % 32, Nat.mod_lt _ (by decide)⟩)
  else if h : px < 64 ∧ py < 32 then some (⟨px, h.1⟩, ⟨py, h.2⟩)
  else none

end Sys2Proof.Machine
end

