-- ==== Sys2Proof/Machine/Arith.lean ====
section
/-! DEFINITION. Register loads, arithmetic, logic and shifts (41_arithmetic_logic.md). -/

namespace Sys2Proof.Machine

/-- 6XKK LD Vx, byte (R132). -/
def execLdImm (x : Nibble) (kk : Byte) (s : State) : Answer := .next (advance (setV s x kk))

/-- 7XKK (R133); `setsVf` is `ADD_IMMEDIATE_SETS_VF`, under which the carry goes to VF, last. -/
def addImmediate (setsVf : Bool) (x : Nibble) (kk : Byte) (s : State) : State :=
  if setsVf then setResultAndFlag x (getV s x + kk) (carryOut (getV s x) kk) s else setV s x (getV s x + kk)

/-- 7XKK ADD Vx, byte (R133). -/
def execAddImm (x : Nibble) (kk : Byte) (s : State) : Answer := .next (advance (addImmediate addImmediateSetsVf x kk s))

/-- 8XY0 LD Vx, Vy (R134). -/
def execLdReg (x y : Nibble) (s : State) : Answer := .next (advance (setV s x (getV s y)))

/-- 8XY1 OR (R135); VF is not reset (D13). -/
def execOr (x y : Nibble) (s : State) : Answer := .next (advance (setV s x (getV s x ||| getV s y)))

/-- 8XY2 AND (R136); VF is not reset (D13). -/
def execAnd (x y : Nibble) (s : State) : Answer := .next (advance (setV s x (getV s x &&& getV s y)))

/-- 8XY3 XOR (R137); VF is not reset (D13). -/
def execXor (x y : Nibble) (s : State) : Answer := .next (advance (setV s x (getV s x ^^^ getV s y)))

/-- 8XY4 ADD Vx, Vy: sum modulo 256, then the carry (R138). -/
def execAddReg (x y : Nibble) (s : State) : Answer :=
  .next (advance (setResultAndFlag x (getV s x + getV s y) (carryOut (getV s x) (getV s y)) s))

/-- 8XY5 SUB Vx, Vy: Vx - Vy, then no borrow (R139). -/
def execSub (x y : Nibble) (s : State) : Answer :=
  .next (advance (setResultAndFlag x (getV s x - getV s y) (noBorrow (getV s x) (getV s y)) s))

/-- 8XY7 SUBN Vx, Vy: Vy - Vx, then no borrow (R141). -/
def execSubn (x y : Nibble) (s : State) : Answer :=
  .next (advance (setResultAndFlag x (getV s y - getV s x) (noBorrow (getV s y) (getV s x)) s))

/-- A right shift by one of `src` into `V[x]`, then the bit shifted out (R140). -/
def shiftRight (src : Byte) (x : Nibble) (s : State) : State :=
  setResultAndFlag x (src >>> 1) (shiftedOutRight src) s

/-- A left shift by one of `src` into `V[x]`, then the bit shifted out (R142). -/
def shiftLeft (src : Byte) (x : Nibble) (s : State) : State :=
  setResultAndFlag x (src <<< 1) (shiftedOutLeft src) s

/-- 8XY6 SHR under the session's quirk (R140, R131). -/
def execShr (x y : Nibble) (s : State) : Answer :=
  .next (advance (shiftRight (shiftSource (quirks s).shiftUsesSourceRegister s x y) x s))

/-- 8XYE SHL under the session's quirk (R142, R131). -/
def execShl (x y : Nibble) (s : State) : Answer :=
  .next (advance (shiftLeft (shiftSource (quirks s).shiftUsesSourceRegister s x y) x s))

end Sys2Proof.Machine
end

