-- ==== Sys2Proof/Machine/Control.lean ====
section
/-! DEFINITION. Control transfer and skips (42_control_flow.md). -/

namespace Sys2Proof.Machine

/-- 0NNN SYS: raises UnknownOpcode (R161). -/
def execSys (nnn : Addr12) (s : State) : Answer := .next (raise .unknownOpcode (.sys nnn) none s)

/-- 00EE RET: pc <- pop(), or StackUnderflow when the stack is empty (R162). -/
def execRet (s : State) : Answer :=
  match s.stack with
  | [] => .next (raise .stackUnderflow .ret none s)
  | a :: rest => .next (jumpTo a (setStack rest s))

/-- 1NNN JP (R163). -/
def execJp (nnn : Addr12) (s : State) : Answer := .next (jumpTo (zext16 nnn) s)

/-- 2NNN CALL: pushes pc + 2 and jumps, or StackOverflow with 16 frames on the stack (R164). -/
def execCall (nnn : Addr12) (s : State) : Answer :=
  if s.stack.length < stackDepth then .next (jumpTo (zext16 nnn) (setStack ((s.pc + 2#16) :: s.stack) s))
  else .next (raise .stackOverflow (.call nnn) none s)

/-- BNNN JP V0 or Vx, addr: the sum is not masked (R165). -/
def jumpOffset (usesVx : Bool) (nnn : Addr12) (s : State) : State :=
  jumpTo (zext16 nnn + (getV s (offsetRegister usesVx nnn)).setWidth 16) s

/-- BNNN under the session's quirk (R165). -/
def execJpOff (nnn : Addr12) (s : State) : Answer := .next (jumpOffset (quirks s).jumpWithOffsetUsesVx nnn s)

/-- 3XKK SE Vx, byte (R166). -/
def execSeImm (x : Nibble) (kk : Byte) (s : State) : Answer := .next (skipIf (getV s x == kk) s)

/-- 4XKK SNE Vx, byte (R167). -/
def execSneImm (x : Nibble) (kk : Byte) (s : State) : Answer := .next (skipIf (getV s x != kk) s)

/-- 5XY0 SE Vx, Vy (R168). -/
def execSeReg (x y : Nibble) (s : State) : Answer := .next (skipIf (getV s x == getV s y) s)

/-- 9XY0 SNE Vx, Vy (R169). -/
def execSneReg (x y : Nibble) (s : State) : Answer := .next (skipIf (getV s x != getV s y) s)

end Sys2Proof.Machine
end

