-- ==== Sys2Proof/Machine/Display.lean ====
section
/-! DEFINITION. Framebuffer instructions and the XOR blitter (44_display.md). -/

namespace Sys2Proof.Machine

/-- 00E0 CLS (R210). -/
def execCls (s : State) : Answer := .next (advance (setFb blankFrame s))

/-- What the loop of R212 carries: the framebuffer and the collision `c`. -/
structure Canvas where
  /-- The framebuffer drawn so far. -/
  fb : Frame
  /-- Whether a set pixel has been unset. -/
  hit : Bool
  deriving DecidableEq, Repr

/-- One sprite pixel of R212: nothing for a 0 bit or a clipped pixel, else XOR, with the collision noted. -/
def plot (lit : Bool) (target : Option (Fin 64 × Fin 32)) (c : Canvas) : Canvas :=
  match lit, target with
  | true, some (x, y) => { fb := togglePixel c.fb x y, hit := c.hit || pixel c.fb x y }
  | true, none => c
  | false, _ => c

/-- The sprite columns 0 to n-1 of one row byte, drawn from column `x0` in row `py` (R212). -/
def drawColumns (wraps : Bool) (x0 py : Nat) (row : Byte) : Nat → Canvas → Canvas
  | 0, c => c
  | n + 1, c => plot (spriteBit row n) (screenTarget wraps (x0 + n) py) (drawColumns wraps x0 py row n c)

/-- The sprite rows 0 to n-1, drawn from `(x0, y0)` (R212). -/
def drawRows (wraps : Bool) (x0 y0 : Nat) (rows : Nat → Byte) : Nat → Canvas → Canvas
  | 0, c => c
  | n + 1, c => drawColumns wraps x0 (y0 + n) (rows n) 8 (drawRows wraps x0 y0 rows n c)

/-- The whole sprite of a DXYN with `n` rows read through `eaOf`, onto the framebuffer of `s` (R211, R212). -/
def drawSprite (wraps : Bool) (eaOf : Nat → Nat) (x y n : Nibble) (s : State) : Canvas :=
  drawRows wraps (originColumn (getV s x)) (originRow (getV s y)) (fun j => s.mem.read (eaOf j)) n.toNat
    { fb := s.fb, hit := false }

/-- DXYN (R212): every sprite address checked first, coordinates read before VF is written, VF = collision, last. -/
def draw (wraps : Bool) (eaOf : Nat → Nat) (x y n : Nibble) (s : State) : State :=
  match firstBad readable eaOf n.toNat with
  | some a => raise .outOfBounds (.drw x y n) (some a) s
  | none => advance (setFlag (drawSprite wraps eaOf x y n s).hit (setFb (drawSprite wraps eaOf x y n s).fb s))

/-- DXYN under the session's quirk (R212-R214). -/
def execDrw (x y n : Nibble) (s : State) : Answer := .next (draw (quirks s).drawWrapsAtEdges (ea s) x y n s)

end Sys2Proof.Machine
end

