-- ==== Sys2Proof/Machine/Index.lean ====
section
/-! DEFINITION. Index register, font, BCD and register dump and load (43_memory_index.md). -/

namespace Sys2Proof.Machine

/-- ANNN LD I, addr (R190). -/
def execLdI (nnn : Addr12) (s : State) : Answer := .next (advance (setI (zext16 nnn) s))

/-- FX1E ADD I, Vx: modulo 2^16, no flag, not masked (R191, R29). -/
def execAddI (x : Nibble) (s : State) : Answer := .next (advance (setI (s.i + (getV s x).setWidth 16) s))

/-- FX29 LD F, Vx: the glyph of the low nibble (R192). -/
def execLdF (x : Nibble) (s : State) : Answer := .next (advance (setI (glyphAddress (lowNibble (getV s x))) s))

/-- The memory access of FX33 and FX55 by instruction `ins`: every address checked first, then the `n` bytes `f 0`, … stored
at `eaOf 0`, …; `I` becomes `i'` (R193, R194). OutOfBounds names the lowest bad address and nothing is written. -/
def storeAtIndex (protect : Bool) (ins : Instr) (eaOf : Nat → Nat) (f : Nat → Byte) (n : Nat) (i' : Word) (s : State) : State :=
  match firstBad (writable protect) eaOf n with
  | some a => raise .outOfBounds ins (some a) s
  | none => advance (setI i' (setMem (storeBytes eaOf f n s.mem) s))

/-- FX33 LD B, Vx: the three BCD digits to I, I+1, I+2 (R193). -/
def execLdB (x : Nibble) (s : State) : Answer :=
  .next (storeAtIndex protectLowMemory (.ldB x) (ea s) (bcdDigit (getV s x)) 3 s.i s)

/-- FX55 LD [I], Vx: V0 to VX to memory at I (R194, R196). -/
def execLdStore (x : Nibble) (s : State) : Answer :=
  .next (storeAtIndex protectLowMemory (.ldStore x) (ea s) (fun k => getV s (BitVec.ofNat 4 k)) (registerCount x)
    (indexAfter (quirks s).loadStoreIncrementsIndex s.i (registerCount x)) s)

/-- FX65 for the `n` bytes at `eaOf 0`, …; `I` becomes `i'` (R195). OutOfBounds names the lowest bad address and nothing is
written. -/
def loadAtIndex (ins : Instr) (eaOf : Nat → Nat) (n : Nat) (i' : Word) (s : State) : State :=
  match firstBad readable eaOf n with
  | some a => raise .outOfBounds ins (some a) s
  | none => advance (setI i' (loadRegisters (fun k => s.mem.read (eaOf k)) n s))

/-- FX65 LD Vx, [I]: V0 to VX from memory at I (R195, R196). -/
def execLdLoad (x : Nibble) (s : State) : Answer :=
  .next (loadAtIndex (.ldLoad x) (ea s) (registerCount x)
    (indexAfter (quirks s).loadStoreIncrementsIndex s.i (registerCount x)) s)

end Sys2Proof.Machine
end

