-- ==== Sys2Proof/Machine/Input.lean ====
section
/-! DEFINITION. Random, keypad and timer instructions (45_random_keys_timers.md). -/

namespace Sys2Proof.Machine

/-- CXKK RND Vx, byte: a fresh free byte under the mask (R230, log entry 4). -/
def execRnd (x : Nibble) (kk : Byte) (s : State) : Answer :=
  .next (advance (countDraw (setV s x (Config.randByte s.draws &&& kk))))

/-- EX9E SKP Vx: level-sensitive, low nibble (R231, R237). -/
def execSkp (x : Nibble) (s : State) : Answer := .next (skipIf (keyPressed s (lowNibble (getV s x))) s)

/-- EXA1 SKNP Vx (R232, R237). -/
def execSknp (x : Nibble) (s : State) : Answer := .next (skipIf (!(keyPressed s (lowNibble (getV s x)))) s)

/-- FX07 LD Vx, DT (R233). -/
def execLdFromDt (x : Nibble) (s : State) : Answer := .next (advance (setV s x s.dt))

/-- FX0A LD Vx, K: enters the key wait and does not advance pc (R234); the wait ends in `keyWaitStep` of Driver.lean (R106). -/
def execLdK (x : Nibble) (s : State) : Answer := .next (setDriver (.waitingForKey x) none s)

/-- FX15 LD DT, Vx (R235). -/
def execLdDt (x : Nibble) (s : State) : Answer := .next (advance (setDt (getV s x) s))

/-- FX18 LD ST, Vx (R236). -/
def execLdSt (x : Nibble) (s : State) : Answer := .next (advance (setSt (getV s x) s))

end Sys2Proof.Machine
end

