-- ==== Sys2Proof/Machine/Driver.lean ====
section
/-! DEFINITION. The interpreter driver around execution, and the host's transactions other than step (40_driver_cycle.md). -/

namespace Sys2Proof.Machine

/-- The fetch of R102: the big-endian word at pc, or the first out-of-range byte address when pc > 0xFFE. -/
def fetchWord (s : State) : Except Nat Word :=
  if 0xFFE < s.pc.toNat then .error (if 0xFFF < s.pc.toNat then s.pc.toNat else s.pc.toNat + 1)
  else .ok (wordOfBytes (s.mem.read s.pc.toNat) (s.mem.read (s.pc.toNat + 1)))

/-- The step whose fetch failed at address `a`: OutOfBounds with no opcode (R102, R105). -/
def fetchFailed (a : Nat) (s : State) : State := haltWith .outOfBounds none (some a) s

/-- The step that executes `Unknown(w)`: UnknownOpcode (R79, R251). -/
def executeUnknown (e : DecodeError) (s : State) : State :=
  match e with
  | .unknown w => haltWith .unknownOpcode (some w) none s

/-- A step in `WaitingForKey(x)` (R106): a no-op while nothing is pending, else `V[x] <- k`, pc + 2, latch cleared, Ready. -/
def keyWaitStep (x : Nibble) (s : State) : State :=
  match s.pending with
  | none => s
  | some k => setDriver .ready none (advance (setV s x (k.setWidth 8)))

/-- Word `w` stored at pc, high byte first, with the driver Ready, so that the next step fetches it (log entry 6). -/
def placeWord (w : Word) (s : State) : State :=
  setDriver .ready s.pending (setMem ((s.mem.write s.pc.toNat (highByte w)).write (s.pc.toNat + 1) (lowByte w)) s)

/-- `DT` or `ST` one tick on, floored at 0 (R110). -/
def tickDown (t : Byte) : Byte := if t = 0#8 then 0#8 else t - 1#8

/-- `tick_timers()`, in every driver state (R110, R111). -/
def tickTimers (s : State) : State := { s with dt := tickDown s.dt, st := tickDown s.st }

/-- The latch check of R114: the first released-to-pressed transition of a wait is kept. -/
def latchKey (k : Nibble) (pressed : Bool) (s : State) : Option Nibble :=
  match s.drv, s.pending with
  | .waitingForKey _, none => if pressed && !(keyPressed s k) then some k else none
  | .waitingForKey _, some j => some j
  | .ready, p => p
  | .halted _, p => p

/-- `set_key_state(k, p)`: the latch check, then `KEY[k] <- p`, in every driver state (R113, R114). -/
def setKeyState (k : Nibble) (pressed : Bool) (s : State) : State :=
  { s with pending := latchKey k pressed s, keys := s.keys.set k.toNat pressed k.isLt }

/-- `load(bytes)` (R112, R281): RomTooLarge and nothing changed when the image is too long; else everything is reset and the
image copied to `LOAD_ADDRESS`, past the low-memory check. The draws go on, each fresh for the
run (log entry 4), and the next session begins, with the quirk configuration supplied for it (log entry 2). -/
def loadRom (rom : List Byte) (s : State) : Except ErrorKind State :=
  if maxRom < rom.length then .error .romTooLarge
  else .ok { State.reset with
    mem := copyBytes rom loadAddress State.reset.mem, draws := s.draws, session := s.session + 1 }

/-- The sound query: `bool(ST != 0)` (R116). -/
def soundOn (s : State) : Bool := s.st != 0#8

end Sys2Proof.Machine
end

