-- ==== Sys2Proof/Machine/Step.lean ====
section
/-! DEFINITION. One `step()` (R101-R107, the pseudocode of R105). -/

namespace Sys2Proof.Machine

/-- `step()`: nothing in Halted, the key wait in WaitingForKey, one fetch-decode-execute cycle in Ready (R101). Its reply to
the host, Ok or Err, is read off the state it answers (R122; `stepReply` in Transactions.lean). -/
def step (s : State) : Host.Outcome State Fault Refusal :=
  match s.drv with
  | .halted _ => .next s
  | .waitingForKey x => .next (keyWaitStep x s)
  | .ready =>
    match fetchWord s with
    | .error a => .next (fetchFailed a s)
    | .ok w =>
      match decode w with
      | .error e => .next (executeUnknown e s)
      | .ok i => exec i s

/-- `s` with the table word `w` (the bits above `nbits` 0) where the next step fetches, pc being at most 0xFFE, and the driver
Ready so that the step fetches at all. It stands for the host's `load` (log entry 6). -/
def State.withFetchWord (s : State) (nbits w : Nat) : State := placeWord (tableWord nbits w) s

end Sys2Proof.Machine
end

