-- ==== Sys2Proof/Machine/Transactions.lean ====
section
/-! DEFINITION. The host's six atomic transactions as one type, with their replies, and the runs its schedules give
(R112-R120, R122, D25, D42). -/

namespace Sys2Proof.Machine

/-- What the host can do to the core, one at a time and in any order (R120). -/
inductive Transaction where
  /-- `load(bytes)` (R112). -/
  | load (rom : List Byte)
  /-- `step()` (R101). -/
  | step
  /-- `tick_timers()` (R110). -/
  | tickTimers
  /-- `set_key_state(k, p)`; k is in 0..15 by its type (R113, R119). -/
  | setKeyState (k : Nibble) (pressed : Bool)
  /-- The framebuffer read (R115). -/
  | readFrame
  /-- The sound query (R116). -/
  | querySound
  deriving DecidableEq, Repr

/-- What a transaction returns to the host. -/
inductive Reply where
  /-- `Ok`. -/
  | ok
  /-- `Err(err)` of `step()` (R122). -/
  | err (err : ErrorRecord)
  /-- `Err(RomTooLarge)` of `load` (R255). -/
  | romTooLarge
  /-- The snapshot of the 64x32 grid (R115). -/
  | frame (fb : Frame)
  /-- Whether a tone sounds (R116). -/
  | sound (on : Bool)
  deriving DecidableEq, Repr

/-- The numeric code of an error kind, the spec's own (R250, D30). -/
def errorCode (k : ErrorKind) : Nat :=
  match k with
  | .unknownOpcode => 1
  | .outOfBounds => 2
  | .stackOverflow => 3
  | .stackUnderflow => 4
  | .romTooLarge => 5

/-- The reply of a `step()` that answered `s`: `Err(err)` when it left the driver Halted, else `Ok` (R105, R107, R122). -/
def stepReply (s : State) : Reply :=
  match s.errorRecord with
  | some e => .err e
  | none => .ok

/-- One transaction: the state after it and the reply. -/
def transact (t : Transaction) (s : State) : Host.Outcome (State × Reply) Fault Refusal :=
  match t with
  | .load rom =>
    match loadRom rom s with
    | .ok s' => .next (s', .ok)
    | .error _ => .next (s, .romTooLarge)
  | .step =>
    match step s with
    | .next s' => .next (s', stepReply s')
    | .fault r => .fault r
    | .refused r => .refused r
  | .tickTimers => .next (tickTimers s, .ok)
  | .setKeyState k pressed => .next (setKeyState k pressed s, .ok)
  | .readFrame => .next (s, .frame s.fb)
  | .querySound => .next (s, .sound (soundOn s))

/-- A run under a schedule the host chooses (R120): its transactions one after the other from `s`, with their replies in order. A
host that stops early has chosen a shorter schedule. -/
def runSchedule : List Transaction → State → Host.Outcome (State × List Reply) Fault Refusal
  | [], s => .next (s, [])
  | tr :: rest, s =>
    match transact tr s with
    | .next (s', r) =>
      match runSchedule rest s' with
      | .next (t, rs) => .next (t, r :: rs)
      | .fault f => .fault f
      | .refused f => .refused f
    | .fault f => .fault f
    | .refused f => .refused f

end Sys2Proof.Machine
end

