-- ==== Sys2Proof/Safety.lean ====
section
/-! DEFINITION. The terms claims are stated in: what an instruction leaves unchanged, that it completes, the machine's
invariant, and the terminal observations of R121. -/

namespace Sys2Proof.Machine

/-- The parts of the state other than the general registers and pc. -/
inductive Part where
  /-- `M`. -/
  | memory
  /-- `I`. -/
  | index
  /-- The call stack. -/
  | stack
  /-- `DT`. -/
  | delay
  /-- `ST`. -/
  | sound
  /-- `FB`. -/
  | screen
  /-- `KEY`. -/
  | keys
  /-- The driver state, with its error record. -/
  | driver
  /-- `pending`. -/
  | latch
  /-- The model's own draw counter. -/
  | draws
  /-- The model's own session counter, which chooses the quirk configuration. -/
  | session
  deriving DecidableEq, Repr

/-- From `s` to `t` only pc, the registers in `regs` and the parts in `parts` may have changed. Memory is compared byte by
byte, through `Memory.read`, and the framebuffer pixel by pixel. -/
def OnlyChanges (parts : List Part) (regs : List Nibble) (s t : State) : Prop :=
  (∀ r : Nibble, r ∉ regs → getV t r = getV s r) ∧
  (.memory ∉ parts → ∀ a : Nat, t.mem.read a = s.mem.read a) ∧
  (.index ∉ parts → t.i = s.i) ∧
  (.stack ∉ parts → t.stack = s.stack) ∧
  (.delay ∉ parts → t.dt = s.dt) ∧
  (.sound ∉ parts → t.st = s.st) ∧
  (.screen ∉ parts → ∀ (x : Fin 64) (y : Fin 32), pixel t.fb x y = pixel s.fb x y) ∧
  (.keys ∉ parts → ∀ k : Nibble, keyPressed t k = keyPressed s k) ∧
  (.driver ∉ parts → t.drv = s.drv) ∧
  (.latch ∉ parts → t.pending = s.pending) ∧
  (.draws ∉ parts → t.draws = s.draws) ∧
  (.session ∉ parts → t.session = s.session)

/-- Instruction `i` answers a next state at `s`, and that state satisfies `post`. -/
def Completes (i : Instr) (s : State) (post : State → Prop) : Prop := ∃ t : State, exec i s = .next t ∧ post t

/-- Instruction `i` fails at `s`: the next state is `s` with the driver Halted on this error (R256, R257), its opcode the
word of `i`. -/
def FailsWith (i : Instr) (s : State) (kind : ErrorKind) (addr : Option Nat) : Prop :=
  exec i s = .next { s with drv := .halted { kind := kind, pc := s.pc, opcode := some (encode i), addr := addr } }

/-- When the execution of instruction `i` in `s` fails: its own check, second and third in the order of R259 (R161, R162, R164,
R193-R195, R212, R213). A store may not reach below 0x200 either (R53). -/
def FailureCondition (i : Instr) (s : State) : Prop :=
  match i with
  | .sys _ => True
  | .ret => s.stack = []
  | .call _ => 16 ≤ s.stack.length
  | .drw _ _ n => ∃ k, k < n.toNat ∧ 0xFFF < ea s k
  | .ldB _ => ∃ k, k < 3 ∧ (0xFFF < ea s k ∨ ea s k < 0x200)
  | .ldStore x => ∃ k, k ≤ x.toNat ∧ (0xFFF < ea s k ∨ ea s k < 0x200)
  | .ldLoad x => ∃ k, k ≤ x.toNat ∧ 0xFFF < ea s k
  | .cls | .jp _ | .seImm _ _ | .sneImm _ _ | .seReg _ _ | .ldImm _ _ | .addImm _ _ | .ldReg _ _ | .or _ _ | .and _ _
  | .xor _ _ | .addReg _ _ | .sub _ _ | .shr _ _ | .subn _ _ | .shl _ _ | .sneReg _ _ | .ldI _ | .jpOff _ | .rnd _ _
  | .skp _ | .sknp _ | .ldFromDt _ | .ldK _ | .ldDt _ | .ldSt _ | .addI _ | .ldF _ => False

/-- The instructions one after the other, each by `exec`, as far as each answers a next state. -/
def execAll : List Instr → State → Answer
  | [], s => .next s
  | i :: rest, s =>
    match exec i s with
    | .next t => execAll rest t
    | .fault r => .fault r
    | .refused r => .refused r

/-- The steps one after the other, as far as each answers a next state. -/
def stepTimes : Nat → State → Answer
  | 0, s => .next s
  | n + 1, s =>
    match step s with
    | .next t => stepTimes n t
    | .fault r => .fault r
    | .refused r => .refused r

/-- `n` calls of `tick_timers()` (R110). -/
def tickTimes : Nat → State → State
  | 0, s => s
  | n + 1, s => tickTimes n (tickTimers s)

/-- The general registers the write column of R23 names for an instruction; FX0A writes when its wait completes (R106), not
when it executes. -/
def writtenRegisters (i : Instr) : List Nibble :=
  match i with
  | .ldImm x _ | .addImm x _ | .ldReg x _ | .or x _ | .and x _ | .xor x _ | .rnd x _ | .ldFromDt x => [x]
  | .addReg x _ | .sub x _ | .shr x _ | .subn x _ | .shl x _ => [x, vf]
  | .drw _ _ _ => [vf]
  | .ldLoad x => (List.range (x.toNat + 1)).map (BitVec.ofNat 4)
  | .cls | .ret | .sys _ | .jp _ | .call _ | .seImm _ _ | .sneImm _ _ | .seReg _ _ | .sneReg _ _ | .ldI _ | .jpOff _
  | .skp _ | .sknp _ | .ldK _ | .ldDt _ | .ldSt _ | .addI _ | .ldF _ | .ldB _ | .ldStore _ => []

/-- The sprite pixel of R212: some 1-bit of the `n` rows, drawn from `(x0, y0)`, lands on pixel `(px, py)`. -/
def SpriteCovers (wraps : Bool) (x0 y0 : Nat) (rows : Nat → Byte) (n px py : Nat) : Prop :=
  ∃ j b : Nat, j < n ∧ b < 8 ∧ (rows j).getLsbD (7 - b) = true ∧
    (if wraps then (x0 + b) % 64 = px ∧ (y0 + j) % 32 = py else x0 + b = px ∧ y0 + j = py)

/-- The illegal encodings of R79. -/
def IllegalWord (w : Word) : Prop :=
  ((opField w = 0x5#4 ∨ opField w = 0x9#4) ∧ nField w ≠ 0x0#4) ∨
  (opField w = 0x8#4 ∧ nField w ∈ [0x8#4, 0x9#4, 0xA#4, 0xB#4, 0xC#4, 0xD#4, 0xF#4]) ∨
  (opField w = 0xE#4 ∧ kkField w ∉ [0x9E#8, 0xA1#8]) ∨
  (opField w = 0xF#4 ∧ kkField w ∉ [0x07#8, 0x0A#8, 0x15#8, 0x18#8, 0x1E#8, 0x29#8, 0x33#8, 0x55#8, 0x65#8])

/-- What holds of the machine after every accepted `load` and every transaction from there on. -/
structure Inv (s : State) : Prop where
  /-- Memory is in canonical form, inside 0x000-0xFFF (log entry 1). -/
  memory : s.mem.wf = true
  /-- At most 16 return addresses (R31). -/
  depth : s.stack.length ≤ 16
  /-- A return address is the address after some fetched 2NNN (R164, R102). -/
  returns : ∀ a ∈ s.stack, a.toNat ≤ 0x1000
  /-- The largest value a rule can produce for pc is 0x10FE (R27). -/
  pcBound : s.pc.toNat ≤ 0x10FE
  /-- The latch holds a key only during a wait (R37). -/
  latch : s.pending ≠ none → ∃ x, s.drv = .waitingForKey x
  /-- While waiting, pc is still at the fetched FX0A (R234). -/
  waiting : ∀ x, s.drv = .waitingForKey x → s.pc.toNat ≤ 0xFFE
  /-- The error record names the pc that is still held (R105), and no step raises RomTooLarge (R255). -/
  record : ∀ e, s.drv = .halted e → e.pc = s.pc ∧ e.kind ≠ .romTooLarge

/-- The run has ended in a fault (R121). -/
def HaltedOnError (s : State) : Prop := ∃ e, s.drv = .halted e

/-- The run idles at a jump to itself: Ready with the word at pc decoding to `JP(pc)` (R121). -/
def IdlesAtSelfJump (s : State) : Prop :=
  s.drv = .ready ∧ ∃ w nnn, fetchWord s = .ok w ∧ decode w = .ok (.jp nnn) ∧ zext16 nnn = s.pc

end Sys2Proof.Machine
end

