-- ==== Sys2Proof/Certificates/Slice0/Obligations.lean ====
section
/-! DEFINITION. The statements for the provers, each from the numbered rules of spec/ its docstring names. -/

open Sys2Proof Sys2Proof.Machine

/-! ## Encoding -/

/-- R71, R72, R80: every well-formed instruction, at every operand, is decoded from the word that encodes it. -/
def Obligations.DecodeOfEncodeIsTheInstruction : Prop :=
  ∀ i : Instr, wellFormed i = true → decode (encode i) = .ok i

/-- R80: a word that decodes to an instruction is that instruction's one word, and the instruction is well-formed. -/
def Obligations.EncodeOfDecodeIsTheWord : Prop :=
  ∀ (w : Word) (i : Instr), decode w = .ok i → encode i = w ∧ wellFormed i = true

/-- R79: the illegal encodings are exactly those listed; the 0NNN words decode; a step that fetches either kind ends in
UnknownOpcode with the word and pc. -/
def Obligations.IllegalAndSysWordsRaiseUnknownOpcode : Prop :=
  (∀ w : Word, decode w = .error (.unknown w) ↔ IllegalWord w) ∧
  (∀ w : Word, opField w = 0x0#4 → w ≠ 0x00E0#16 → w ≠ 0x00EE#16 → decode w = .ok (.sys (nnnField w))) ∧
  (∀ (s : State) (w : Word), s.drv = .ready → fetchWord s = .ok w →
    (IllegalWord w ∨ (opField w = 0x0#4 ∧ w ≠ 0x00E0#16 ∧ w ≠ 0x00EE#16)) →
    transact .step s =
      .next ({ s with drv := .halted { kind := .unknownOpcode, pc := s.pc, opcode := some w, addr := none } },
        .err { kind := .unknownOpcode, pc := s.pc, opcode := some w, addr := none }))

/-- R74, R80: words written out from the encodings, one or more for each of the sixteen families. -/
def Obligations.WordsOfEachFamilyDecode : Prop :=
  decode 0x00E0#16 = .ok .cls ∧ decode 0x00EE#16 = .ok .ret ∧ decode 0x0123#16 = .ok (.sys 0x123#12) ∧
  decode 0x1234#16 = .ok (.jp 0x234#12) ∧ decode 0x2300#16 = .ok (.call 0x300#12) ∧
  decode 0x3507#16 = .ok (.seImm 0x5#4 0x07#8) ∧ decode 0x4507#16 = .ok (.sneImm 0x5#4 0x07#8) ∧
  decode 0x5120#16 = .ok (.seReg 0x1#4 0x2#4) ∧ decode 0x6A42#16 = .ok (.ldImm 0xA#4 0x42#8) ∧
  decode 0x7301#16 = .ok (.addImm 0x3#4 0x01#8) ∧
  decode 0x8126#16 = .ok (.shr 0x1#4 0x2#4) ∧ decode 0x812E#16 = .ok (.shl 0x1#4 0x2#4) ∧
  decode 0x9120#16 = .ok (.sneReg 0x1#4 0x2#4) ∧ decode 0xA300#16 = .ok (.ldI 0x300#12) ∧
  decode 0xB200#16 = .ok (.jpOff 0x200#12) ∧ decode 0xC30F#16 = .ok (.rnd 0x3#4 0x0F#8) ∧ decode 0xD125#16 = .ok (.drw 0x1#4 0x2#4 0x5#4) ∧
  decode 0xE29E#16 = .ok (.skp 0x2#4) ∧ decode 0xF30A#16 = .ok (.ldK 0x3#4) ∧ decode 0xF265#16 = .ok (.ldLoad 0x2#4)

/-! ## The driver -/

/-- R101-R104: in Ready, the step fetches the two bytes at pc, high byte first, and is the execution of the instruction they
decode to. -/
def Obligations.StepExecutesTheDecodedInstruction : Prop :=
  ∀ (s : State) (i : Instr), s.drv = .ready → s.pc.toNat ≤ 0xFFE →
    decode (wordOfBytes (s.mem.read s.pc.toNat) (s.mem.read (s.pc.toNat + 1))) = .ok i → step s = exec i s

/-- R102: in Ready the fetch at pc > 0xFFE halts with OutOfBounds, no opcode and the first address outside memory; at any
other pc the word is the big-endian one there. -/
def Obligations.FetchOutsideMemoryHalts : Prop :=
  (∀ s : State, s.drv = .ready → 0xFFE < s.pc.toNat →
    transact .step s =
      .next ({ s with drv := .halted { kind := .outOfBounds, pc := s.pc, opcode := none,
                                       addr := some (if 0xFFF < s.pc.toNat then s.pc.toNat else s.pc.toNat + 1) } },
        .err { kind := .outOfBounds, pc := s.pc, opcode := none,
               addr := some (if 0xFFF < s.pc.toNat then s.pc.toNat else s.pc.toNat + 1) })) ∧
  (∀ s : State, s.pc.toNat ≤ 0xFFE →
    ∃ w : Word, fetchWord s = .ok w ∧
      w.toNat = (s.mem.read s.pc.toNat).toNat * 256 + (s.mem.read (s.pc.toNat + 1)).toNat)

/-- R106: a step in WaitingForKey is a no-op that replies Ok while nothing is pending, and completes the wait once a key is. -/
def Obligations.KeyWaitStepsUntilAKeyIsPending : Prop :=
  (∀ (s : State) (x : Nibble), s.drv = .waitingForKey x → s.pending = none → transact .step s = .next (s, .ok)) ∧
  (∀ (s : State) (x k : Nibble), s.drv = .waitingForKey x → s.pending = some k →
    ∃ t : State, transact .step s = .next (t, .ok) ∧ (getV t x).toNat = k.toNat ∧ t.pc = s.pc + 2#16 ∧ t.pending = none ∧
      t.drv = .ready ∧ OnlyChanges [.driver, .latch] [x] s t)

/-- R107: in Halted a step changes nothing and replies the same error, and no transaction but an accepted load leaves it. -/
def Obligations.HaltedLeavesOnlyByLoad : Prop :=
  (∀ (s : State) (e : ErrorRecord), s.drv = .halted e → transact .step s = .next (s, .err e)) ∧
  (∀ (s t : State) (e : ErrorRecord) (tr : Transaction) (r : Reply), s.drv = .halted e → transact tr s = .next (t, r) →
    t.drv = .halted e ∨ ∃ rom, tr = .load rom ∧ rom.length ≤ 3584 ∧ t.drv = .ready)

/-- R256: a step that fails leaves every part of the state but the driver as it was, and its record holds the failing
pc, the word fetched (none when the fetch failed) and, for OutOfBounds only, an address. -/
def Obligations.ErrorsArePrecise : Prop :=
  ∀ (s t : State) (e : ErrorRecord), s.drv = .ready → step s = .next t → t.drv = .halted e →
    t = { s with drv := .halted e } ∧ e.pc = s.pc ∧ (∀ w, fetchWord s = .ok w → e.opcode = some w) ∧
    (∀ a, fetchWord s = .error a → e.opcode = none) ∧ (e.kind = .outOfBounds ↔ e.addr ≠ none) ∧ e.kind ≠ .romTooLarge

/-- R100: the driver's transitions, one clause a transaction. A step in Ready halts exactly when the fetch fails, the word is
Unknown, or the instruction meets its own failure condition; FX0A, which has none, leads to the wait, and any other
instruction back to Ready. -/
def Obligations.DriverTransitionsAreTheTable : Prop :=
  ∀ (s t : State) (tr : Transaction) (r : Reply), transact tr s = .next (t, r) →
    match tr with
    | .load rom => if rom.length ≤ 3584 then t.drv = .ready else t.drv = s.drv
    | .step =>
      match s.drv with
      | .halted e => t.drv = .halted e
      | .waitingForKey x => if s.pending = none then t.drv = .waitingForKey x else t.drv = .ready
      | .ready =>
        (∀ a, fetchWord s = .error a → HaltedOnError t) ∧
        (∀ w e, fetchWord s = .ok w → decode w = .error e → HaltedOnError t) ∧
        (∀ w i, fetchWord s = .ok w → decode w = .ok i →
          (FailureCondition i s → HaltedOnError t) ∧
          (∀ x, i = .ldK x → t.drv = .waitingForKey x) ∧
          (¬ FailureCondition i s → (∀ x, i ≠ .ldK x) → t.drv = .ready))
    | .tickTimers => t.drv = s.drv
    | .setKeyState _ _ => t.drv = s.drv
    | .readFrame => t.drv = s.drv
    | .querySound => t.drv = s.drv

/-- R122: a step replies Err exactly when it leaves the driver Halted, with that record, and Ok otherwise. -/
def Obligations.StepRepliesErrExactlyWhenHalted : Prop :=
  ∀ (s t : State) (r : Reply), transact .step s = .next (t, r) →
    (∀ e, r = .err e ↔ t.drv = .halted e) ∧ (r = .ok ↔ ¬ HaltedOnError t)

/-- R101, R105, R122: `step()` always completes; the machine itself never stops. That a failed step is a next state, and never
the host interface's fault, is how the model fills that interface (log entry 5). -/
def Obligations.EveryStepAnswersANextState : Prop := ∀ s : State, ∃ t : State, step s = .next t

/-- R121, D34: at a jump to itself every step leaves the state unchanged. -/
def Obligations.SelfJumpIdles : Prop := ∀ s : State, IdlesAtSelfJump s → step s = .next s

/-- R109: DT changes only by FX15, a tick or a load, and ST only by FX18, a tick or a load. -/
def Obligations.TimersMoveOnlyByTickOrTimerWrite : Prop :=
  ∀ (s t : State) (tr : Transaction) (r : Reply), transact tr s = .next (t, r) →
    (t.dt ≠ s.dt → tr = .tickTimers ∨ (∃ rom, tr = .load rom) ∨
      (tr = .step ∧ ∃ w x, fetchWord s = .ok w ∧ decode w = .ok (.ldDt x))) ∧
    (t.st ≠ s.st → tr = .tickTimers ∨ (∃ rom, tr = .load rom) ∨
      (tr = .step ∧ ∃ w x, fetchWord s = .ok w ∧ decode w = .ok (.ldSt x)))

/-- R110, R111: in every driver state a tick takes both timers down by 1, floored at 0, and changes nothing else. -/
def Obligations.TickDecrementsBothTimersFlooredAtZero : Prop :=
  ∀ s : State, ∃ t : State, transact .tickTimers s = .next (t, .ok) ∧ t.dt.toNat = s.dt.toNat - 1 ∧ t.st.toNat = s.st.toNat - 1 ∧
    t.pc = s.pc ∧ OnlyChanges [.delay, .sound] [] s t

/-- R116, R236, R110, R115: in every state the sound query replies whether ST is not 0, and the framebuffer read the framebuffer,
and neither changes anything; FX18 with value n makes the sound query true for exactly the first n ticks. -/
def Obligations.SoundLastsAsManyTicksAsFx18Sets : Prop :=
  (∀ (s t : State) (x : Nibble) (n : Nat), exec (.ldSt x) s = .next t →
    transact .querySound (tickTimes n t) = .next (tickTimes n t, .sound (decide (n < (getV s x).toNat)))) ∧
  (∀ s : State, transact .querySound s = .next (s, .sound (decide (s.st ≠ 0#8)))) ∧
  (∀ s : State, transact .readFrame s = .next (s, .frame s.fb))

/-- R41: an accepted load, from any state, leaves every part of the state at its reset value, the font and the
image in memory, and 0 elsewhere. -/
def Obligations.AcceptedLoadResetsEverything : Prop :=
  ∀ (rom : List Byte) (s : State), rom.length ≤ 3584 → ∃ t : State, transact (.load rom) s = .next (t, .ok) ∧
    (∀ a, a < 4096 → t.mem.read a =
      if 0x200 ≤ a ∧ a < 0x200 + rom.length then rom.getD (a - 0x200) 0
      else if 0x050 ≤ a ∧ a < 0x0A0 then fontData.getD (a - 0x050) 0 else 0) ∧
    (∀ r : Nibble, getV t r = 0#8) ∧ t.i = 0#16 ∧ t.pc = 0x200#16 ∧ t.stack = [] ∧ t.dt = 0#8 ∧ t.st = 0#8 ∧
    (∀ (x : Fin 64) (y : Fin 32), pixel t.fb x y = false) ∧ (∀ k : Nibble, keyPressed t k = false) ∧ t.drv = .ready ∧
    t.pending = none ∧ t.errorRecord = none

/-- R40: after any accepted load glyph d stands at 0x050 + 5*d, byte for byte as the table of R40 has it, and FX29 points there. -/
def Obligations.GlyphsStandWhereFx29Points : Prop :=
  ∀ (rom : List Byte) (s t u : State) (x : Nibble) (k : Nat), loadRom rom s = .ok t → k < 5 →
    exec (.ldF x) u = .next { u with i := (BitVec.ofNat 16 (0x050 + 5 * ((getV u x).toNat % 16))), pc := u.pc + 2#16 } ∧
    t.mem.read (0x050 + 5 * ((getV u x).toNat % 16) + k) =
      ([0xF0#8, 0x90#8, 0x90#8, 0x90#8, 0xF0#8] ++ [0x20#8, 0x60#8, 0x20#8, 0x20#8, 0x70#8] ++
       [0xF0#8, 0x10#8, 0xF0#8, 0x80#8, 0xF0#8] ++ [0xF0#8, 0x10#8, 0xF0#8, 0x10#8, 0xF0#8] ++
       [0x90#8, 0x90#8, 0xF0#8, 0x10#8, 0x10#8] ++ [0xF0#8, 0x80#8, 0xF0#8, 0x10#8, 0xF0#8] ++
       [0xF0#8, 0x80#8, 0xF0#8, 0x90#8, 0xF0#8] ++ [0xF0#8, 0x10#8, 0x20#8, 0x40#8, 0x40#8] ++
       [0xF0#8, 0x90#8, 0xF0#8, 0x90#8, 0xF0#8] ++ [0xF0#8, 0x90#8, 0xF0#8, 0x10#8, 0xF0#8] ++
       [0xF0#8, 0x90#8, 0xF0#8, 0x90#8, 0x90#8] ++ [0xE0#8, 0x90#8, 0xE0#8, 0x90#8, 0xE0#8] ++
       [0xF0#8, 0x80#8, 0x80#8, 0x80#8, 0xF0#8] ++ [0xE0#8, 0x90#8, 0x90#8, 0x90#8, 0xE0#8] ++
       [0xF0#8, 0x80#8, 0xF0#8, 0x80#8, 0xF0#8] ++ [0xF0#8, 0x80#8, 0xF0#8, 0x80#8, 0x80#8]).getD
        (5 * ((getV u x).toNat % 16) + k) 0

/-- R255: a load of more than 3584 bytes replies RomTooLarge and leaves the whole state as it was, in every driver state. -/
def Obligations.TooLongLoadChangesNothing : Prop :=
  ∀ (rom : List Byte) (s : State), 3584 < rom.length → transact (.load rom) s = .next (s, .romTooLarge)

/-- R113, R114: set_key_state sets the one key, and latches it exactly when the driver waits, nothing is pending and the key
goes from released to pressed. -/
def Obligations.SetKeyStateLatchesTheFirstNewPress : Prop :=
  ∀ (s : State) (k : Nibble) (p : Bool), ∃ t : State, transact (.setKeyState k p) s = .next (t, .ok) ∧
    keyPressed t k = p ∧ (∀ j : Nibble, j ≠ k → keyPressed t j = keyPressed s j) ∧
    ((∃ x, s.drv = .waitingForKey x) ∧ s.pending = none ∧ p = true ∧ keyPressed s k = false → t.pending = some k) ∧
    (¬ ((∃ x, s.drv = .waitingForKey x) ∧ s.pending = none ∧ p = true ∧ keyPressed s k = false) → t.pending = s.pending) ∧
    t.pc = s.pc ∧ OnlyChanges [.keys, .latch] [] s t

/-- R106, R114, R234, R290: FX0A waits through any number of steps at the same pc, a key already held does not end the wait,
and a new press does at the next step. -/
def Obligations.KeyWaitEndsAtTheStepAfterANewPress : Prop :=
  ∀ (s : State) (w : Word) (x k : Nibble) (n : Nat), s.drv = .ready → fetchWord s = .ok w → decode w = .ok (.ldK x) →
    ∃ t : State, stepTimes (n + 1) s = .next t ∧ t.pc = s.pc ∧ t.drv = .waitingForKey x ∧
      (keyPressed s k = false → ∃ u, step (setKeyState k true t) = .next u ∧ (getV u x).toNat = k.toNat ∧
        u.pc = s.pc + 2#16 ∧ u.drv = .ready) ∧
      (keyPressed s k = true → step (setKeyState k true t) = .next t)

/-! ## Invariants and whole-machine rules -/

/-- R41, R281: the state right after reset satisfies the invariant. The model's choices in it: reset is the load of the empty
image (log entry 6), memory is a list in canonical form (log entry 1). -/
def Obligations.ResetSatisfiesTheInvariant : Prop := Inv State.reset

/-- R27, R31, R37, R105: every step keeps the invariant. The canonical form of memory in it is the model's (log entry 1). -/
def Obligations.EveryStepKeepsTheInvariant : Prop := ∀ s t : State, Inv s → step s = .next t → Inv t

/-- R120: every transaction, in any order the host chooses, keeps the invariant. The canonical form of memory in it is the
model's (log entry 1). -/
def Obligations.EveryTransactionKeepsTheInvariant : Prop :=
  ∀ (s t : State) (tr : Transaction) (r : Reply), Inv s → transact tr s = .next (t, r) → Inv t

/-- R51, R53, R281: no transaction but an accepted load changes a byte below LOAD_ADDRESS, and an accepted load leaves the font and
zeros there. -/
def Obligations.LowMemoryIsNeverWritten : Prop :=
  ∀ (s t : State) (tr : Transaction) (r : Reply), s.mem.wf = true → transact tr s = .next (t, r) →
    ∀ a, a < 0x200 →
      ((∀ rom, tr = .load rom → 3584 < rom.length) → t.mem.read a = s.mem.read a) ∧
      (∀ rom, tr = .load rom → rom.length ≤ 3584 → t.mem.read a = initialByte a)

/-- The write column of R23's table, which the spec marks as derived from the instruction rules: an instruction changes no
general register but those it names. -/
def Obligations.RegistersChangeOnlyAsTheTableNames : Prop :=
  ∀ (i : Instr) (s t : State) (r : Nibble), exec i s = .next t → r ∉ writtenRegisters i → getV t r = getV s r

/-- R28, R30, R34, R35, R58: which instructions may change I, the stack, the framebuffer and memory; none changes the keys. -/
def Obligations.PartsChangeOnlyByTheirInstructions : Prop :=
  ∀ (i : Instr) (s t : State), exec i s = .next t →
    (t.i ≠ s.i → (∃ nnn, i = .ldI nnn) ∨ ∃ x, i = .addI x ∨ i = .ldF x ∨ i = .ldStore x ∨ i = .ldLoad x) ∧
    (t.stack ≠ s.stack → i = .ret ∨ ∃ nnn, i = .call nnn) ∧
    (∀ px py, pixel t.fb px py ≠ pixel s.fb px py → i = .cls ∨ ∃ x y n, i = .drw x y n) ∧
    (∀ a, t.mem.read a ≠ s.mem.read a → ∃ x, i = .ldB x ∨ i = .ldStore x) ∧
    (∀ k, keyPressed t k = keyPressed s k)

/-- R35: the keys change only by set_key_state and by a load, which releases them all. -/
def Obligations.KeysChangeOnlyByTheHost : Prop :=
  ∀ (s t : State) (tr : Transaction) (r : Reply), transact tr s = .next (t, r) →
    ∀ k, keyPressed t k ≠ keyPressed s k → (∃ p, tr = .setKeyState k p) ∨ ((∃ rom, tr = .load rom) ∧ keyPressed t k = false)

/-- R33, R30, R35: no instruction reads ST; none but 2NNN and 00EE sees the stack; none but EX9E and EXA1 sees the keys. What
an instruction makes of the rest of the state is the same whatever they hold. -/
def Obligations.SoundStackAndKeysAreHiddenFromOtherInstructions : Prop :=
  ∀ (i : Instr) (s t : State), exec i s = .next t →
    (∀ b : Byte, (∀ x, i ≠ .ldSt x) → exec i { s with st := b } = .next { t with st := b }) ∧
    (∀ k : List Word, i ≠ .ret → (∀ nnn, i ≠ .call nnn) → exec i { s with stack := k } = .next { t with stack := k }) ∧
    (∀ ks : Vector Bool 16, (∀ x, i ≠ .skp x) → (∀ x, i ≠ .sknp x) →
      exec i { s with keys := ks } = .next { t with keys := ks })

/-- R65, R288: the bytes FX55 stores are what the very next fetch there reads. -/
def Obligations.StoredBytesAreFetchedNext : Prop :=
  ∀ (x : Nibble) (s : State) (k : Nat), s.mem.wf = true → 0x200 ≤ s.i.toNat → s.i.toNat + x.toNat ≤ 0xFFF → k + 1 ≤ x.toNat →
    ∃ t : State, exec (.ldStore x) s = .next t ∧
      fetchWord { t with pc := BitVec.ofNat 16 (ea s k) } =
        .ok (wordOfBytes (getV s (BitVec.ofNat 4 k)) (getV s (BitVec.ofNat 4 (k + 1))))

/-! ## Control transfer -/

/-- R161: 0NNN, the words 0x00E0 and 0x00EE excluded, raises UnknownOpcode with its word, 0x0NNN, and pc; nothing else
changes. -/
def Obligations.SysRaisesUnknownOpcode : Prop :=
  ∀ (nnn : Addr12) (s : State), wellFormed (.sys nnn) = true →
    FailsWith (.sys nnn) s .unknownOpcode none ∧ (encode (.sys nnn)).toNat = nnn.toNat

/-- R162: 00EE pops the newest return address into pc as it is, and is StackUnderflow on an empty stack. -/
def Obligations.RetPopsTheNewestAddress : Prop :=
  (∀ (s : State) (a : Word) (rest : List Word), s.stack = a :: rest →
    Completes .ret s fun t => t.pc = a ∧ t.stack = rest ∧ OnlyChanges [.stack] [] s t) ∧
  (∀ s : State, s.stack = [] → FailsWith .ret s .stackUnderflow none)

/-- R163: 1NNN sets pc to NNN zero-extended and changes nothing else. -/
def Obligations.JumpSetsPc : Prop :=
  ∀ (nnn : Addr12) (s : State), Completes (.jp nnn) s fun t => t.pc.toNat = nnn.toNat ∧ OnlyChanges [] [] s t

/-- R164: 2NNN pushes pc + 2 and jumps below depth 16, and is StackOverflow at depth 16. -/
def Obligations.CallPushesTheNextAddress : Prop :=
  (∀ (nnn : Addr12) (s : State), s.stack.length < 16 →
    Completes (.call nnn) s fun t =>
      t.pc.toNat = nnn.toNat ∧ t.stack = (s.pc + 2#16) :: s.stack ∧ OnlyChanges [.stack] [] s t) ∧
  (∀ (nnn : Addr12) (s : State), s.stack.length = 16 → FailsWith (.call nnn) s .stackOverflow none)

/-- R253: 2NNN at depth 16 is StackOverflow; from an empty stack sixteen nested calls succeed and the seventeenth faults. -/
def Obligations.SixteenCallsNestAndTheNextOverflows : Prop :=
  (∀ (nnn : Addr12) (s : State), s.stack.length = 16 → FailsWith (.call nnn) s .stackOverflow none) ∧
  (∀ (targets : List Addr12) (s : State), s.stack = [] → targets.length ≤ 16 →
    ∃ t : State, execAll (targets.map Instr.call) s = .next t ∧ t.stack.length = targets.length ∧ t.drv = s.drv) ∧
  (∀ (targets : List Addr12) (nnn : Addr12) (s : State), s.stack = [] → targets.length = 16 →
    ∃ t : State, execAll (targets.map Instr.call) s = .next t ∧ FailsWith (.call nnn) t .stackOverflow none)

/-- R162, R164: a return with the stack as a call left it goes to the word after the call and gives the stack back. -/
def Obligations.ReturnUndoesCall : Prop :=
  ∀ (nnn : Addr12) (s t u : State), s.stack.length < 16 → exec (.call nnn) s = .next t → u.stack = t.stack →
    Completes .ret u fun v => v.pc = s.pc + 2#16 ∧ v.stack = s.stack

/-- R165: BNNN jumps to NNN plus V0, or plus V[NNN[11:8]] under the quirk, unmasked. -/
def Obligations.JumpOffsetAddsTheQuirkRegister : Prop :=
  ∀ (nnn : Addr12) (s : State), Completes (.jpOff nnn) s fun t =>
    t.pc.toNat = nnn.toNat +
      (if (quirks s).jumpWithOffsetUsesVx then getV s (BitVec.ofNat 4 (nnn.toNat / 256)) else getV s 0x0#4).toNat ∧
    OnlyChanges [] [] s t

/-- R166-R169: the four register skips move pc by 4 when their condition holds, else by 2, and change nothing else. -/
def Obligations.SkipsMovePcByFourOrTwo : Prop :=
  ∀ (x y : Nibble) (kk : Byte) (s : State),
    (Completes (.seImm x kk) s fun t =>
      t.pc = (if getV s x = kk then s.pc + 4#16 else s.pc + 2#16) ∧ OnlyChanges [] [] s t) ∧
    (Completes (.sneImm x kk) s fun t =>
      t.pc = (if getV s x ≠ kk then s.pc + 4#16 else s.pc + 2#16) ∧ OnlyChanges [] [] s t) ∧
    (Completes (.seReg x y) s fun t =>
      t.pc = (if getV s x = getV s y then s.pc + 4#16 else s.pc + 2#16) ∧ OnlyChanges [] [] s t) ∧
    (Completes (.sneReg x y) s fun t =>
      t.pc = (if getV s x ≠ getV s y then s.pc + 4#16 else s.pc + 2#16) ∧ OnlyChanges [] [] s t)

/-! ## Register loads, arithmetic, logic, shifts -/

/-- R132, R134-R137: immediate load, copy, OR, AND, XOR write V[X] and nothing else; VF is not reset. -/
def Obligations.LoadsAndLogicWriteOnlyVx : Prop :=
  ∀ (x y : Nibble) (kk : Byte) (s : State),
    (Completes (.ldImm x kk) s fun t => getV t x = kk ∧ t.pc = s.pc + 2#16 ∧ OnlyChanges [] [x] s t) ∧
    (Completes (.ldReg x y) s fun t => getV t x = getV s y ∧ t.pc = s.pc + 2#16 ∧ OnlyChanges [] [x] s t) ∧
    (Completes (.or x y) s fun t => getV t x = getV s x ||| getV s y ∧ t.pc = s.pc + 2#16 ∧ OnlyChanges [] [x] s t) ∧
    (Completes (.and x y) s fun t => getV t x = getV s x &&& getV s y ∧ t.pc = s.pc + 2#16 ∧ OnlyChanges [] [x] s t) ∧
    (Completes (.xor x y) s fun t => getV t x = getV s x ^^^ getV s y ∧ t.pc = s.pc + 2#16 ∧ OnlyChanges [] [x] s t)

/-- R133: 7XKK adds modulo 256 and writes no flag by default; under ADD_IMMEDIATE_SETS_VF the carry is VF, last. -/
def Obligations.AddImmediateWrapsWithoutFlag : Prop :=
  ∀ (x : Nibble) (kk : Byte) (s : State),
    (Completes (.addImm x kk) s fun t =>
      (getV t x).toNat = ((getV s x).toNat + kk.toNat) % 256 ∧ t.pc = s.pc + 2#16 ∧ OnlyChanges [] [x] s t) ∧
    (getV (addImmediate true x kk s) vf = if 256 ≤ (getV s x).toNat + kk.toNat then 1#8 else 0#8) ∧
    (x ≠ vf → (getV (addImmediate true x kk s) x).toNat = ((getV s x).toNat + kk.toNat) % 256)

/-- R138, R130: 8XY4 leaves the sum modulo 256 in V[X] and the carry in VF; VF is the carry even when X = F. -/
def Obligations.AddRegisterSetsCarry : Prop :=
  ∀ (x y : Nibble) (s : State), Completes (.addReg x y) s fun t =>
    getV t vf = (if 256 ≤ (getV s x).toNat + (getV s y).toNat then 1#8 else 0#8) ∧
    (x ≠ vf → (getV t x).toNat = ((getV s x).toNat + (getV s y).toNat) % 256) ∧
    t.pc = s.pc + 2#16 ∧ OnlyChanges [] [x, vf] s t

/-- R139, R141, R130: 8XY5 and 8XY7 leave the difference modulo 256 and VF = 1 exactly on no borrow, last. That no borrow means
a >= b is the spec's own inference (R139: "no borrow" as a >= b). -/
def Obligations.SubtractsSetNoBorrow : Prop :=
  ∀ (x y : Nibble) (s : State),
    (Completes (.sub x y) s fun t =>
      getV t vf = (if (getV s y).toNat ≤ (getV s x).toNat then 1#8 else 0#8) ∧
      (x ≠ vf → ((getV t x).toNat : Int) = ((getV s x).toNat - (getV s y).toNat : Int) % 256) ∧
      t.pc = s.pc + 2#16 ∧ OnlyChanges [] [x, vf] s t) ∧
    (Completes (.subn x y) s fun t =>
      getV t vf = (if (getV s x).toNat ≤ (getV s y).toNat then 1#8 else 0#8) ∧
      (x ≠ vf → ((getV t x).toNat : Int) = ((getV s y).toNat - (getV s x).toNat : Int) % 256) ∧
      t.pc = s.pc + 2#16 ∧ OnlyChanges [] [x, vf] s t)

/-- R131, R140, R142, R130: 8XY6 and 8XYE shift the operand the quirk selects by one and leave the bit shifted out in VF, last. -/
def Obligations.ShiftsMoveTheQuirkOperandByOne : Prop :=
  ∀ (x y : Nibble) (s : State),
    (Completes (.shr x y) s fun t =>
      getV t vf = BitVec.ofNat 8 ((if (quirks s).shiftUsesSourceRegister then getV s x else getV s y).toNat % 2) ∧
      (x ≠ vf → (getV t x).toNat = (if (quirks s).shiftUsesSourceRegister then getV s x else getV s y).toNat / 2) ∧
      t.pc = s.pc + 2#16 ∧ OnlyChanges [] [x, vf] s t) ∧
    (Completes (.shl x y) s fun t =>
      getV t vf = BitVec.ofNat 8 ((if (quirks s).shiftUsesSourceRegister then getV s x else getV s y).toNat / 128) ∧
      (x ≠ vf → (getV t x).toNat = (if (quirks s).shiftUsesSourceRegister then getV s x else getV s y).toNat * 2 % 256) ∧
      t.pc = s.pc + 2#16 ∧ OnlyChanges [] [x, vf] s t)

/-! ## Index and memory -/

/-- R190, R191: ANNN sets I to NNN, FX1E adds V[X] to I modulo 2^16 with no mask and no flag. -/
def Obligations.IndexLoadsAndAdds : Prop :=
  (∀ (nnn : Addr12) (s : State), Completes (.ldI nnn) s fun t =>
    t.i.toNat = nnn.toNat ∧ t.pc = s.pc + 2#16 ∧ OnlyChanges [.index] [] s t) ∧
  (∀ (x : Nibble) (s : State), Completes (.addI x) s fun t =>
    t.i.toNat = (s.i.toNat + (getV s x).toNat) % 65536 ∧ t.pc = s.pc + 2#16 ∧ OnlyChanges [.index] [] s t)

/-- R192: FX29 points I at the glyph of the low nibble of V[X]. -/
def Obligations.FontAddressIsBasePlusFiveTimesTheDigit : Prop :=
  ∀ (x : Nibble) (s : State), Completes (.ldF x) s fun t =>
    t.i.toNat = 0x050 + 5 * ((getV s x).toNat % 16) ∧ t.pc = s.pc + 2#16 ∧ OnlyChanges [.index] [] s t

/-- R193: FX33 stores hundreds, tens and ones at I, I+1, I+2 when all three are writable, and otherwise writes nothing and
fails OutOfBounds at the lowest bad address. -/
def Obligations.BcdStoresThreeDigitsOrFails : Prop :=
  ∀ (x : Nibble) (s : State), s.mem.wf = true →
    (0x200 ≤ s.i.toNat → s.i.toNat + 2 ≤ 0xFFF →
      Completes (.ldB x) s fun t =>
        (t.mem.read (ea s 0)).toNat = (getV s x).toNat / 100 ∧
        (t.mem.read (ea s 1)).toNat = (getV s x).toNat / 10 % 10 ∧
        (t.mem.read (ea s 2)).toNat = (getV s x).toNat % 10 ∧
        (∀ a, a ≠ ea s 0 → a ≠ ea s 1 → a ≠ ea s 2 → t.mem.read a = s.mem.read a) ∧
        t.pc = s.pc + 2#16 ∧ OnlyChanges [.memory] [] s t) ∧
    (s.i.toNat < 0x200 → FailsWith (.ldB x) s .outOfBounds (some (ea s 0))) ∧
    (0xFFF < s.i.toNat + 2 → FailsWith (.ldB x) s .outOfBounds (some (max (ea s 0) 0x1000)))

/-- R194: FX55 stores V0 to VX from I on when every address is writable, adds X + 1 to I under the quirk, and otherwise
writes nothing and fails OutOfBounds at the lowest bad address. -/
def Obligations.RegisterStoreWritesV0ToVxOrFails : Prop :=
  ∀ (x : Nibble) (s : State), s.mem.wf = true →
    (0x200 ≤ s.i.toNat → s.i.toNat + x.toNat ≤ 0xFFF →
      Completes (.ldStore x) s fun t =>
        (∀ r : Nibble, r.toNat ≤ x.toNat → t.mem.read (ea s r.toNat) = getV s r) ∧
        (∀ a, (∀ k, k ≤ x.toNat → a ≠ ea s k) → t.mem.read a = s.mem.read a) ∧
        t.i.toNat = (if (quirks s).loadStoreIncrementsIndex then (s.i.toNat + x.toNat + 1) % 65536 else s.i.toNat) ∧
        t.pc = s.pc + 2#16 ∧ OnlyChanges [.memory, .index] [] s t) ∧
    (s.i.toNat < 0x200 → FailsWith (.ldStore x) s .outOfBounds (some (ea s 0))) ∧
    (0xFFF < s.i.toNat + x.toNat → FailsWith (.ldStore x) s .outOfBounds (some (max (ea s 0) 0x1000)))

/-- R195: FX65 loads V0 to VX from I on when every address is inside memory, adds X + 1 to I under the quirk, and
otherwise writes nothing and fails OutOfBounds at the lowest bad address. -/
def Obligations.RegisterLoadReadsV0ToVxOrFails : Prop :=
  ∀ (x : Nibble) (s : State),
    (s.i.toNat + x.toNat ≤ 0xFFF →
      Completes (.ldLoad x) s fun t =>
        (∀ r : Nibble, r.toNat ≤ x.toNat → getV t r = s.mem.read (ea s r.toNat)) ∧
        (∀ r : Nibble, x.toNat < r.toNat → getV t r = getV s r) ∧
        t.i.toNat = (if (quirks s).loadStoreIncrementsIndex then (s.i.toNat + x.toNat + 1) % 65536 else s.i.toNat) ∧
        t.pc = s.pc + 2#16 ∧ OnlyChanges [.index] (writtenRegisters (.ldLoad x)) s t) ∧
    (0xFFF < s.i.toNat + x.toNat → FailsWith (.ldLoad x) s .outOfBounds (some (max (ea s 0) 0x1000)))

/-- R53, R55: under the other value of a parameter. With PROTECT_LOW_MEMORY false a store anywhere inside memory happens;
with INDEX_ADDRESS_WRAP true the k-th address is (I + k) mod 4096 and no load or draw fails. -/
def Obligations.OtherParameterValuesLiftTheChecks : Prop :=
  (∀ (ins : Instr) (f : Nat → Byte) (n : Nat) (i' : Word) (s : State), s.i.toNat + n ≤ 0x1000 →
    storeAtIndex false ins (ea s) f n i' s = advance (setI i' (setMem (storeBytes (ea s) f n s.mem) s))) ∧
  (∀ (i : Word) (k : Nat), effectiveAddress true i k = (i.toNat + k) % 4096) ∧
  (∀ (ins : Instr) (n : Nat) (i' : Word) (s : State),
    (loadAtIndex ins (effectiveAddress true s.i) n i' s).drv = s.drv) ∧
  (∀ (wraps : Bool) (x y n : Nibble) (s : State), (draw wraps (effectiveAddress true s.i) x y n s).drv = s.drv)

/-! ## Display -/

/-- R210: 00E0 clears all 2048 pixels and changes nothing else but pc. -/
def Obligations.ClearScreenClearsEveryPixel : Prop :=
  ∀ s : State, Completes .cls s fun t =>
    (∀ (px : Fin 64) (py : Fin 32), pixel t.fb px py = false) ∧ t.pc = s.pc + 2#16 ∧ OnlyChanges [.screen] [] s t

/-- R211, R212: DXYN toggles exactly the pixels the sprite covers, VF is 1 exactly when a set pixel became unset and else 0, I
and the rest stand; a sprite byte past 0xFFF fails OutOfBounds at the lowest bad address with nothing drawn. -/
def Obligations.DrawTogglesCoveredPixelsAndFlagsCollision : Prop :=
  ∀ (x y n : Nibble) (s : State),
    (n = 0#4 ∨ s.i.toNat + n.toNat ≤ 0x1000 →
      Completes (.drw x y n) s fun t =>
        (∀ (px : Fin 64) (py : Fin 32),
          (SpriteCovers (quirks s).drawWrapsAtEdges ((getV s x).toNat % 64) ((getV s y).toNat % 32)
              (fun j => s.mem.read (ea s j)) n.toNat px.val py.val → pixel t.fb px py = !(pixel s.fb px py)) ∧
          (¬ SpriteCovers (quirks s).drawWrapsAtEdges ((getV s x).toNat % 64) ((getV s y).toNat % 32)
              (fun j => s.mem.read (ea s j)) n.toNat px.val py.val → pixel t.fb px py = pixel s.fb px py)) ∧
        (getV t vf = 1#8 ∨ getV t vf = 0#8) ∧
        (getV t vf = 1#8 ↔ ∃ px py, pixel s.fb px py = true ∧ pixel t.fb px py = false) ∧
        t.pc = s.pc + 2#16 ∧ OnlyChanges [.screen] [vf] s t) ∧
    (n ≠ 0#4 → 0x1000 < s.i.toNat + n.toNat →
      FailsWith (.drw x y n) s .outOfBounds (some (max (ea s 0) 0x1000)))

/-- R213: DXY0 draws nothing, writes VF 0 and raises nothing, whatever I holds. -/
def Obligations.DrawOfNoRowsOnlyClearsVf : Prop :=
  ∀ (x y : Nibble) (s : State), Completes (.drw x y 0#4) s fun t =>
    getV t vf = 0#8 ∧ t.pc = s.pc + 2#16 ∧ OnlyChanges [] [vf] s t

/-- R216, R212, R214: a second draw with the same I, coordinates and memory, on the framebuffer the first left, gives the
framebuffer from before the first. Its VF is 1 exactly when the sprite covers a pixel that was unset before the first draw: that
pixel is the one the second draw unsets. Unless the sprite covers some pixel and every pixel it covers was set before the
first draw, that is R216's own sentence: VF is 1 exactly when the sprite has a 1-bit that is drawn (log entry 12 on that case). -/
def Obligations.DrawingTwiceRestoresTheScreen : Prop :=
  ∀ (x y n : Nibble) (s t u : State), (n = 0#4 ∨ s.i.toNat + n.toNat ≤ 0x1000) → exec (.drw x y n) s = .next t →
    u.fb = t.fb → u.i = s.i → getV u x = getV s x → getV u y = getV s y → (∀ a, u.mem.read a = s.mem.read a) →
    u.session = s.session → Completes (.drw x y n) u fun u' =>
      (∀ (px : Fin 64) (py : Fin 32), pixel u'.fb px py = pixel s.fb px py) ∧
      (getV u' vf = 1#8 ↔ ∃ (px : Fin 64) (py : Fin 32), pixel s.fb px py = false ∧
        SpriteCovers (quirks s).drawWrapsAtEdges ((getV s x).toNat % 64) ((getV s y).toNat % 32)
          (fun j => s.mem.read (ea s j)) n.toNat px.val py.val) ∧
      (((∃ (px : Fin 64) (py : Fin 32), SpriteCovers (quirks s).drawWrapsAtEdges ((getV s x).toNat % 64) ((getV s y).toNat % 32)
            (fun j => s.mem.read (ea s j)) n.toNat px.val py.val) →
          ∃ (px : Fin 64) (py : Fin 32), pixel s.fb px py = false ∧
            SpriteCovers (quirks s).drawWrapsAtEdges ((getV s x).toNat % 64) ((getV s y).toNat % 32)
              (fun j => s.mem.read (ea s j)) n.toNat px.val py.val) →
        (getV u' vf = 1#8 ↔ ∃ (px : Fin 64) (py : Fin 32),
          SpriteCovers (quirks s).drawWrapsAtEdges ((getV s x).toNat % 64) ((getV s y).toNat % 32)
            (fun j => s.mem.read (ea s j)) n.toNat px.val py.val))

/-- The last sentence of R216 as it stands, over every framebuffer: the second draw's VF is 1 exactly when the sprite has a
1-bit that is drawn. EXPECTED TO FAIL: by R212 and R214 a sprite that covers set pixels only unsets them at the first draw and
sets them again at the second, which is no collision (log entry 12). -/
def Obligations.SecondDrawFlagsEveryDrawnSprite : Prop :=
  ∀ (x y n : Nibble) (s t u u' : State), exec (.drw x y n) s = .next t → t.drv = s.drv →
    u.fb = t.fb → u.i = s.i → getV u x = getV s x → getV u y = getV s y → (∀ a, u.mem.read a = s.mem.read a) →
    u.session = s.session → exec (.drw x y n) u = .next u' →
    (getV u' vf = 1#8 ↔ ∃ (px : Fin 64) (py : Fin 32),
      SpriteCovers (quirks s).drawWrapsAtEdges ((getV s x).toNat % 64) ((getV s y).toNat % 32)
        (fun j => s.mem.read (ea s j)) n.toNat px.val py.val)

/-! ## Random, keys, timers -/

/-- R230: CXKK puts a fresh draw, whatever byte it is, under the mask KK into V[X]; only bits of KK can be 1. The draw is the
free value of log entry 4. -/
def Obligations.RandomByteIsUnderTheMask : Prop :=
  ∀ (x : Nibble) (kk : Byte) (s : State), Completes (.rnd x kk) s fun t =>
    getV t x = Config.randByte s.draws &&& kk ∧ getV t x &&& ~~~kk = 0#8 ∧ s.draws < t.draws ∧ t.pc = s.pc + 2#16 ∧
    OnlyChanges [.draws] [x] s t

/-- R231, R232: the key skips test the key of V[X]'s low nibble and change nothing but pc. -/
def Obligations.KeySkipsTestTheLowNibbleKey : Prop :=
  ∀ (x k : Nibble) (s : State), k.toNat = (getV s x).toNat % 16 →
    (Completes (.skp x) s fun t =>
      t.pc = (if keyPressed s k = true then s.pc + 4#16 else s.pc + 2#16) ∧ OnlyChanges [] [] s t) ∧
    (Completes (.sknp x) s fun t =>
      t.pc = (if keyPressed s k = false then s.pc + 4#16 else s.pc + 2#16) ∧ OnlyChanges [] [] s t)

/-- R234: the step that executes FX0A clears the latch, enters WaitingForKey(X) and does not advance pc. -/
def Obligations.KeyWaitEntersWithoutAdvancing : Prop :=
  ∀ (x : Nibble) (s : State), Completes (.ldK x) s fun t =>
    t.pending = none ∧ t.drv = .waitingForKey x ∧ t.pc = s.pc ∧ OnlyChanges [.driver, .latch] [] s t

/-- R233, R235, R236: FX07 reads DT, FX15 writes DT, FX18 writes ST, and nothing else changes but pc. -/
def Obligations.TimerInstructionsCopyOneByte : Prop :=
  ∀ (x : Nibble) (s : State),
    (Completes (.ldFromDt x) s fun t => getV t x = s.dt ∧ t.pc = s.pc + 2#16 ∧ OnlyChanges [] [x] s t) ∧
    (Completes (.ldDt x) s fun t => t.dt = getV s x ∧ t.pc = s.pc + 2#16 ∧ OnlyChanges [.delay] [] s t) ∧
    (Completes (.ldSt x) s fun t => t.st = getV s x ∧ t.pc = s.pc + 2#16 ∧ OnlyChanges [.sound] [] s t)

/-! ## Runs -/

/-- R120: every schedule of transactions, from any state, is a run: it completes with one reply a transaction. A schedule of one
transaction is that transaction, and a schedule in two parts is the second part run from where the first one ended. -/
def Obligations.EveryInterleavingIsARun : Prop :=
  (∀ (schedule : List Transaction) (s : State), ∃ (t : State) (rs : List Reply),
    runSchedule schedule s = .next (t, rs) ∧ rs.length = schedule.length) ∧
  (∀ (tr : Transaction) (s t : State) (r : Reply), transact tr s = .next (t, r) → runSchedule [tr] s = .next (t, [r])) ∧
  (∀ (first second : List Transaction) (s t u : State) (rs qs : List Reply), runSchedule first s = .next (t, rs) →
    runSchedule second t = .next (u, qs) → runSchedule (first ++ second) s = .next (u, rs ++ qs))

/-- R120, R280: along every run the invariant holds, from a state that satisfies it, and from any state at all once the run begins
with an accepted load. The canonical form of memory in it is the model's (log entry 1). -/
def Obligations.EveryRunKeepsTheInvariant : Prop :=
  (∀ (schedule : List Transaction) (s t : State) (rs : List Reply), Inv s → runSchedule schedule s = .next (t, rs) → Inv t) ∧
  (∀ (rom : List Byte) (schedule : List Transaction) (s t : State) (rs : List Reply), rom.length ≤ 3584 →
    runSchedule (.load rom :: schedule) s = .next (t, rs) → Inv t)
end

