-- ==== Sys2Proof/Laws/Checks.lean ====
section
/-! SUPPORT. What the address check of R55 and R259 answers, and the two ways a memory instruction can go. -/

namespace Sys2Proof.Machine

/-- An address may be read exactly inside memory (R52). -/
theorem readable_iff (a : Nat) : readable a = true ↔ a < 0x1000 := by
  rw [readable, decide_eq_true_eq]; rfl

/-- An address may be written exactly inside memory and, under protection, from `LOAD_ADDRESS` on (R53). -/
theorem writable_iff (protect : Bool) (a : Nat) : writable protect a = true ↔ a < 0x1000 ∧ (protect = true → 0x200 ≤ a) := by
  simp only [writable, Bool.and_eq_true, Bool.not_eq_true', Bool.and_eq_false_iff, decide_eq_true_eq, decide_eq_false_iff_not]
  simp only [memSize, loadAddress]
  cases protect
  · simp
  · simp only [Bool.true_eq_false, false_or, forall_const, Nat.not_lt]

/-- No bad address: every address passes the check. -/
theorem firstBad_none {ok : Nat → Bool} {eaOf : Nat → Nat} {n : Nat} :
    firstBad ok eaOf n = none ↔ ∀ k, k < n → ok (eaOf k) = true := by
  induction n with
  | zero => simp [firstBad]
  | succ n ih =>
    simp only [firstBad]
    split <;> rename_i h
    · simp only [reduceCtorEq, false_iff]
      intro hall
      rw [ih.2 (fun k hk => hall k (by omega))] at h
      cases h
    · have hn := ih.1 h
      constructor
      · intro hok k hk
        by_cases hkn : k = n
        · subst hkn; cases hb : ok (eaOf k) with
          | true => rfl
          | false => simp [hb] at hok
        · exact hn k (by omega)
      · intro hall; simp [hall n (by omega)]

/-- The bad address named is the one at the lowest k that fails the check. -/
theorem firstBad_some {ok : Nat → Bool} {eaOf : Nat → Nat} {n a : Nat} (h : firstBad ok eaOf n = some a) :
    ∃ k, k < n ∧ a = eaOf k ∧ ok (eaOf k) = false ∧ ∀ j, j < k → ok (eaOf j) = true := by
  induction n with
  | zero => cases h
  | succ n ih =>
    simp only [firstBad] at h
    split at h <;> rename_i hn
    · cases h
      obtain ⟨k, hk, rest⟩ := ih hn
      exact ⟨k, by omega, rest⟩
    · cases hb : ok (eaOf n) with
      | true => simp [hb] at h
      | false =>
        simp [hb] at h
        exact ⟨n, by omega, h.symm, hb, firstBad_none.1 hn⟩

/-- The check fails exactly at the lowest bad k. -/
theorem firstBad_eq_some {ok : Nat → Bool} {eaOf : Nat → Nat} {n k : Nat} (hk : k < n) (hbad : ok (eaOf k) = false)
    (hlow : ∀ j, j < k → ok (eaOf j) = true) : firstBad ok eaOf n = some (eaOf k) := by
  cases h : firstBad ok eaOf n with
  | none => rw [firstBad_none.1 h k hk] at hbad; cases hbad
  | some a =>
    obtain ⟨j, _, ha, hj, hjl⟩ := firstBad_some h
    have : j = k := by
      rcases Nat.lt_trichotomy j k with hlt | heq | hgt
      · rw [hlow j hlt] at hj; cases hj
      · exact heq
      · rw [hjl k hgt] at hbad; cases hbad
    rw [ha, this]

@[simp] theorem ea_eq (s : State) (k : Nat) : ea s k = s.i.toNat + k := by simp [ea, effectiveAddress, indexAddressWrap]

/-- All a store at I can do: fail at the lowest bad address, or store every byte and advance. -/
theorem storeAtIndex_cases (protect : Bool) (ins : Instr) (eaOf : Nat → Nat) (f : Nat → Byte) (n : Nat) (i' : Word) (s : State) :
    (∃ k, k < n ∧ writable protect (eaOf k) = false ∧ (∀ j, j < k → writable protect (eaOf j) = true) ∧
      storeAtIndex protect ins eaOf f n i' s = raise .outOfBounds ins (some (eaOf k)) s) ∨
    ((∀ k, k < n → writable protect (eaOf k) = true) ∧
      storeAtIndex protect ins eaOf f n i' s = advance (setI i' (setMem (storeBytes eaOf f n s.mem) s))) := by
  unfold storeAtIndex
  split <;> rename_i h
  · obtain ⟨k, hk, ha, hbad, hlow⟩ := firstBad_some h
    exact .inl ⟨k, hk, hbad, hlow, by rw [ha]⟩
  · exact .inr ⟨firstBad_none.1 h, rfl⟩

/-- All a load at I can do: fail at the lowest bad address, or load every register and advance. -/
theorem loadAtIndex_cases (ins : Instr) (eaOf : Nat → Nat) (n : Nat) (i' : Word) (s : State) :
    (∃ k, k < n ∧ readable (eaOf k) = false ∧ (∀ j, j < k → readable (eaOf j) = true) ∧
      loadAtIndex ins eaOf n i' s = raise .outOfBounds ins (some (eaOf k)) s) ∨
    ((∀ k, k < n → readable (eaOf k) = true) ∧
      loadAtIndex ins eaOf n i' s = advance (setI i' (loadRegisters (fun k => s.mem.read (eaOf k)) n s))) := by
  unfold loadAtIndex
  split <;> rename_i h
  · obtain ⟨k, hk, ha, hbad, hlow⟩ := firstBad_some h
    exact .inl ⟨k, hk, hbad, hlow, by rw [ha]⟩
  · exact .inr ⟨firstBad_none.1 h, rfl⟩

end Sys2Proof.Machine
end

