-- ==== Sys2Proof/Laws/Display.lean ====
section
/-! SUPPORT. What the XOR blitter does, pixel by pixel (R212, R214): each covered pixel is toggled once, and the collision is
noted exactly when a covered pixel was set. -/

namespace Sys2Proof.Machine

@[simp] theorem pixel_blankFrame (x : Fin 64) (y : Fin 32) : pixel blankFrame x y = false := by
  simp [pixel, blankFrame]

theorem pixel_togglePixel (fb : Frame) (x x' : Fin 64) (y y' : Fin 32) :
    pixel (togglePixel fb x y) x' y' = if x' = x ∧ y' = y then !(pixel fb x y) else pixel fb x' y' := by
  unfold pixel togglePixel
  by_cases hy : y' = y
  · subst hy
    by_cases hx : x' = x
    · subst hx; simp [pixel]
    · have : x.val ≠ x'.val := fun e => hx (Fin.ext e.symm)
      simp [hx, Vector.getElem_set_ne, this]
  · have : y.val ≠ y'.val := fun e => hy (Fin.ext e.symm)
    simp [hy, Vector.getElem_set_ne, this]

/-- Two sprite columns under 64 apart never land on one pixel. -/
theorem screenTarget_column {wraps : Bool} {x0 b b' py py' : Nat} {p : Fin 64 × Fin 32} (hb : b < 64) (hb' : b' < 64)
    (h : screenTarget wraps (x0 + b) py = some p) (h' : screenTarget wraps (x0 + b') py' = some p) : b = b' := by
  cases wraps with
  | true =>
    simp only [screenTarget, if_true, Option.some.injEq] at h h'
    have := congrArg (fun q : Fin 64 × Fin 32 => q.1.val) (h.trans h'.symm)
    simp only at this
    omega
  | false =>
    simp only [screenTarget, Bool.false_eq_true, if_false] at h h'
    split at h <;> simp only [reduceCtorEq, Option.some.injEq] at h
    split at h' <;> simp only [reduceCtorEq, Option.some.injEq] at h'
    have := congrArg (fun q : Fin 64 × Fin 32 => q.1.val) (h.trans h'.symm)
    simp only at this
    omega

/-- Two sprite rows under 32 apart never land on one pixel. -/
theorem screenTarget_row {wraps : Bool} {px px' y0 j j' : Nat} {p : Fin 64 × Fin 32} (hj : j < 32) (hj' : j' < 32)
    (h : screenTarget wraps px (y0 + j) = some p) (h' : screenTarget wraps px' (y0 + j') = some p) : j = j' := by
  cases wraps with
  | true =>
    simp only [screenTarget, if_true, Option.some.injEq] at h h'
    have := congrArg (fun q : Fin 64 × Fin 32 => q.2.val) (h.trans h'.symm)
    simp only at this
    omega
  | false =>
    simp only [screenTarget, Bool.false_eq_true, if_false] at h h'
    split at h <;> simp only [reduceCtorEq, Option.some.injEq] at h
    split at h' <;> simp only [reduceCtorEq, Option.some.injEq] at h'
    have := congrArg (fun q : Fin 64 × Fin 32 => q.2.val) (h.trans h'.symm)
    simp only at this
    omega

/-- What a pass of the blitter that covers the pixels in `cov` makes of a canvas. -/
structure Blits (cov : Fin 64 → Fin 32 → Prop) (c c' : Canvas) : Prop where
  covered : ∀ x y, cov x y → pixel c'.fb x y = !(pixel c.fb x y)
  uncovered : ∀ x y, ¬ cov x y → pixel c'.fb x y = pixel c.fb x y
  collision : c'.hit = true ↔ c.hit = true ∨ ∃ x y, cov x y ∧ pixel c.fb x y = true

/-- A pass that covers nothing. -/
theorem Blits.refl {cov : Fin 64 → Fin 32 → Prop} (c : Canvas) (h : ∀ x y, ¬ cov x y) : Blits cov c c :=
  ⟨fun x y hc => absurd hc (h x y), fun _ _ _ => rfl, ⟨.inl, fun h' => h'.elim id fun ⟨x, y, hc, _⟩ => absurd hc (h x y)⟩⟩

/-- Two passes over disjoint pixels are one pass over both. -/
theorem Blits.trans {a b ab : Fin 64 → Fin 32 → Prop} {c d e : Canvas} (h1 : Blits a c d) (h2 : Blits b d e)
    (hdisj : ∀ x y, a x y → ¬ b x y) (hor : ∀ x y, ab x y ↔ a x y ∨ b x y) : Blits ab c e where
  covered x y h := by
    rcases (hor x y).1 h with ha | hb
    · rw [h2.uncovered x y (hdisj x y ha), h1.covered x y ha]
    · rw [h2.covered x y hb, h1.uncovered x y (fun ha => hdisj x y ha hb)]
  uncovered x y h := by
    rw [h2.uncovered x y (fun hb => h ((hor x y).2 (.inr hb))), h1.uncovered x y (fun ha => h ((hor x y).2 (.inl ha)))]
  collision := by
    rw [h2.collision, h1.collision]
    constructor
    · rintro ((h | ⟨x, y, ha, hp⟩) | ⟨x, y, hb, hp⟩)
      · exact .inl h
      · exact .inr ⟨x, y, (hor x y).2 (.inl ha), hp⟩
      · exact .inr ⟨x, y, (hor x y).2 (.inr hb), by rwa [h1.uncovered x y (fun ha => hdisj x y ha hb)] at hp⟩
    · rintro (h | ⟨x, y, hab, hp⟩)
      · exact .inl (.inl h)
      · rcases (hor x y).1 hab with ha | hb
        · exact .inl (.inr ⟨x, y, ha, hp⟩)
        · exact .inr ⟨x, y, hb, by rwa [h1.uncovered x y (fun ha => hdisj x y ha hb)]⟩

theorem plot_blits (lit : Bool) (target : Option (Fin 64 × Fin 32)) (c : Canvas) :
    Blits (fun x y => lit = true ∧ target = some (x, y)) c (plot lit target c) := by
  cases lit with
  | false => exact Blits.refl c (by simp)
  | true =>
    cases target with
    | none => exact Blits.refl c (by simp)
    | some p =>
      obtain ⟨px, py⟩ := p
      refine ⟨?_, ?_, ?_⟩
      · rintro x y ⟨-, h⟩; cases h
        simp [plot, pixel_togglePixel]
      · intro x y h
        simp only [plot, pixel_togglePixel]
        rw [if_neg]
        rintro ⟨rfl, rfl⟩
        exact h ⟨rfl, rfl⟩
      · simp only [plot, Bool.or_eq_true, true_and, Option.some.injEq, Prod.mk.injEq]
        constructor
        · rintro (h | h)
          · exact .inl h
          · exact .inr ⟨px, py, ⟨rfl, rfl⟩, h⟩
        · rintro (h | ⟨x, y, ⟨rfl, rfl⟩, h⟩)
          · exact .inl h
          · exact .inr h

theorem drawColumns_blits (wraps : Bool) (x0 py : Nat) (row : Byte) (n : Nat) (hn : n ≤ 8) (c : Canvas) :
    Blits (fun x y => ∃ b, b < n ∧ spriteBit row b = true ∧ screenTarget wraps (x0 + b) py = some (x, y)) c
      (drawColumns wraps x0 py row n c) := by
  induction n with
  | zero => exact Blits.refl c (by simp)
  | succ n ih =>
    refine (ih (by omega)).trans (plot_blits (spriteBit row n) (screenTarget wraps (x0 + n) py) _) ?_ ?_
    · rintro x y ⟨b, hb, -, ht⟩ ⟨-, ht'⟩
      have := screenTarget_column (by omega) (by omega) ht ht'
      omega
    · intro x y
      constructor
      · rintro ⟨b, hb, hl, ht⟩
        by_cases hbn : b = n
        · subst hbn; exact .inr ⟨hl, ht⟩
        · exact .inl ⟨b, by omega, hl, ht⟩
      · rintro (⟨b, hb, hl, ht⟩ | ⟨hl, ht⟩)
        · exact ⟨b, by omega, hl, ht⟩
        · exact ⟨n, by omega, hl, ht⟩

/-- The loop of R212 as a whole: up to 15 rows of 8 columns, no pixel met twice. -/
theorem drawRows_blits (wraps : Bool) (x0 y0 : Nat) (rows : Nat → Byte) (n : Nat) (hn : n ≤ 32) (c : Canvas) :
    Blits (fun x y => ∃ j b, j < n ∧ b < 8 ∧ spriteBit (rows j) b = true ∧ screenTarget wraps (x0 + b) (y0 + j) = some (x, y)) c
      (drawRows wraps x0 y0 rows n c) := by
  induction n with
  | zero => exact Blits.refl c (by simp)
  | succ n ih =>
    refine (ih (by omega)).trans (drawColumns_blits wraps x0 (y0 + n) (rows n) 8 (by omega) _) ?_ ?_
    · rintro x y ⟨j, b, hj, -, -, ht⟩ ⟨b', -, -, ht'⟩
      have := screenTarget_row (by omega) (by omega) ht ht'
      omega
    · intro x y
      constructor
      · rintro ⟨j, b, hj, hb, hl, ht⟩
        by_cases hjn : j = n
        · subst hjn; exact .inr ⟨b, hb, hl, ht⟩
        · exact .inl ⟨j, b, by omega, hb, hl, ht⟩
      · rintro (⟨j, b, hj, hb, hl, ht⟩ | ⟨b, hb, hl, ht⟩)
        · exact ⟨j, b, by omega, hb, hl, ht⟩
        · exact ⟨n, b, by omega, hb, hl, ht⟩

/-- Where a sprite pixel lands, in the words of R212. -/
theorem screenTarget_eq_some {wraps : Bool} {px py : Nat} {x : Fin 64} {y : Fin 32} :
    screenTarget wraps px py = some (x, y) ↔
      if wraps then px % 64 = x.val ∧ py % 32 = y.val else px = x.val ∧ py = y.val := by
  cases wraps with
  | true => simp [screenTarget, Fin.ext_iff]
  | false =>
    simp only [screenTarget, Bool.false_eq_true, if_false]
    split <;> rename_i h
    · simp [Fin.ext_iff]
    · simp only [reduceCtorEq, false_iff]
      rintro ⟨rfl, rfl⟩
      exact h ⟨x.isLt, y.isLt⟩

/-- All a DXYN can do: fail at the lowest bad sprite address, or draw, flag the collision and advance. -/
theorem draw_cases (wraps : Bool) (eaOf : Nat → Nat) (x y n : Nibble) (s : State) :
    (∃ a, firstBad readable eaOf n.toNat = some a ∧ draw wraps eaOf x y n s = raise .outOfBounds (.drw x y n) (some a) s) ∨
    (firstBad readable eaOf n.toNat = none ∧ draw wraps eaOf x y n s =
      advance (setFlag (drawSprite wraps eaOf x y n s).hit (setFb (drawSprite wraps eaOf x y n s).fb s))) := by
  unfold draw
  split <;> rename_i h
  · exact .inl ⟨_, h, rfl⟩
  · exact .inr ⟨h, rfl⟩

end Sys2Proof.Machine
end

