-- ==== Sys2Proof/Laws/Encoding.lean ====
section
/-! SUPPORT. The fields and the encodings as numbers, so that a claim about a word is arithmetic. -/

namespace Sys2Proof

theorem opField_toNat (w : Word) : (opField w).toNat = w.toNat / 4096 := by
  have := w.isLt
  simp [opField, BitVec.extractLsb'_toNat, Nat.shiftRight_eq_div_pow]
  omega

theorem xField_toNat (w : Word) : (xField w).toNat = w.toNat / 256 % 16 := by
  simp [xField, BitVec.extractLsb'_toNat, Nat.shiftRight_eq_div_pow]

theorem yField_toNat (w : Word) : (yField w).toNat = w.toNat / 16 % 16 := by
  simp [yField, BitVec.extractLsb'_toNat, Nat.shiftRight_eq_div_pow]

theorem nField_toNat (w : Word) : (nField w).toNat = w.toNat % 16 := by simp [nField, BitVec.extractLsb'_toNat]

theorem kkField_toNat (w : Word) : (kkField w).toNat = w.toNat % 256 := by simp [kkField, BitVec.extractLsb'_toNat]

theorem nnnField_toNat (w : Word) : (nnnField w).toNat = w.toNat % 4096 := by simp [nnnField, BitVec.extractLsb'_toNat]

/-- R12: `a ++ b` is `a` in the high bits. -/
theorem append_toNat {m n : Nat} (a : BitVec m) (b : BitVec n) : (a ++ b).toNat = a.toNat * 2 ^ n + b.toNat := by
  rw [BitVec.toNat_append, ← Nat.shiftLeft_add_eq_or_of_lt b.isLt, Nat.shiftLeft_eq]

theorem wordOfBytes_toNat (hi lo : Byte) : (wordOfBytes hi lo).toNat = hi.toNat * 256 + lo.toNat := append_toNat hi lo

theorem encodeNnn_toNat (op : Nibble) (nnn : Addr12) : (encodeNnn op nnn).toNat = op.toNat * 4096 + nnn.toNat :=
  append_toNat op nnn

theorem encodeXkk_toNat (op x : Nibble) (kk : Byte) :
    (encodeXkk op x kk).toNat = op.toNat * 4096 + x.toNat * 256 + kk.toNat := by
  have h := append_toNat (op ++ x) kk
  rw [append_toNat op x] at h
  refine Eq.trans h ?_
  omega

theorem encodeXyn_toNat (op x y n : Nibble) :
    (encodeXyn op x y n).toNat = op.toNat * 4096 + x.toNat * 256 + y.toNat * 16 + n.toNat := by
  have h := append_toNat (op ++ x ++ y) n
  rw [append_toNat (op ++ x) y, append_toNat op x] at h
  refine Eq.trans h ?_
  omega

/-- The two bytes of a word, put together again big-endian, are the word (R54, R56). -/
theorem wordOfBytes_bytes (w : Word) : wordOfBytes (highByte w) (lowByte w) = w := by
  apply BitVec.eq_of_toNat_eq
  have := w.isLt
  rw [wordOfBytes_toNat]
  simp [highByte, lowByte, BitVec.extractLsb'_toNat, Nat.shiftRight_eq_div_pow]
  omega

/-! Each field of an encoded word is the operand that was put there (R71, R72). -/

@[simp] theorem opField_encodeNnn (op : Nibble) (nnn : Addr12) : opField (encodeNnn op nnn) = op :=
  BitVec.eq_of_toNat_eq (by rw [opField_toNat, encodeNnn_toNat]; omega)

@[simp] theorem nnnField_encodeNnn (op : Nibble) (nnn : Addr12) : nnnField (encodeNnn op nnn) = nnn :=
  BitVec.eq_of_toNat_eq (by rw [nnnField_toNat, encodeNnn_toNat]; omega)

@[simp] theorem opField_encodeXkk (op x : Nibble) (kk : Byte) : opField (encodeXkk op x kk) = op :=
  BitVec.eq_of_toNat_eq (by rw [opField_toNat, encodeXkk_toNat]; omega)

@[simp] theorem xField_encodeXkk (op x : Nibble) (kk : Byte) : xField (encodeXkk op x kk) = x :=
  BitVec.eq_of_toNat_eq (by rw [xField_toNat, encodeXkk_toNat]; omega)

@[simp] theorem kkField_encodeXkk (op x : Nibble) (kk : Byte) : kkField (encodeXkk op x kk) = kk :=
  BitVec.eq_of_toNat_eq (by rw [kkField_toNat, encodeXkk_toNat]; omega)

@[simp] theorem opField_encodeXyn (op x y n : Nibble) : opField (encodeXyn op x y n) = op :=
  BitVec.eq_of_toNat_eq (by rw [opField_toNat, encodeXyn_toNat]; omega)

@[simp] theorem xField_encodeXyn (op x y n : Nibble) : xField (encodeXyn op x y n) = x :=
  BitVec.eq_of_toNat_eq (by rw [xField_toNat, encodeXyn_toNat]; omega)

@[simp] theorem yField_encodeXyn (op x y n : Nibble) : yField (encodeXyn op x y n) = y :=
  BitVec.eq_of_toNat_eq (by rw [yField_toNat, encodeXyn_toNat]; omega)

@[simp] theorem nField_encodeXyn (op x y n : Nibble) : nField (encodeXyn op x y n) = n :=
  BitVec.eq_of_toNat_eq (by rw [nField_toNat, encodeXyn_toNat]; omega)

/-- A word is its fields put together, in each of the three shapes. -/
theorem encodeNnn_fields (w : Word) : encodeNnn (opField w) (nnnField w) = w :=
  BitVec.eq_of_toNat_eq (by rw [encodeNnn_toNat, opField_toNat, nnnField_toNat]; omega)

theorem encodeXkk_fields (w : Word) : encodeXkk (opField w) (xField w) (kkField w) = w :=
  BitVec.eq_of_toNat_eq (by rw [encodeXkk_toNat, opField_toNat, xField_toNat, kkField_toNat]; omega)

theorem encodeXyn_fields (w : Word) : encodeXyn (opField w) (xField w) (yField w) (nField w) = w :=
  BitVec.eq_of_toNat_eq (by rw [encodeXyn_toNat, opField_toNat, xField_toNat, yField_toNat, nField_toNat]; omega)

/-- The sixteen nibbles, for a case split over a field. -/
theorem nibble_cases : ∀ n : Nibble, n = 0x0#4 ∨ n = 0x1#4 ∨ n = 0x2#4 ∨ n = 0x3#4 ∨ n = 0x4#4 ∨ n = 0x5#4 ∨ n = 0x6#4 ∨ n = 0x7#4 ∨
    n = 0x8#4 ∨ n = 0x9#4 ∨ n = 0xA#4 ∨ n = 0xB#4 ∨ n = 0xC#4 ∨ n = 0xD#4 ∨ n = 0xE#4 ∨ n = 0xF#4 := by decide

/-- One line of R80 that does not match. -/
theorem decode_line_error {c : Prop} [Decidable c] {i : Instr} {r : Except DecodeError Instr} {e : DecodeError}
    (h : (if c then .ok i else r) = .error e) : ¬ c ∧ r = .error e := by
  split at h
  · cases h
  · exact ⟨by assumption, h⟩

/-- One line of R80: it matches, or a later line does. -/
theorem decode_line_ok {c : Prop} [Decidable c] {i j : Instr} {r : Except DecodeError Instr}
    (h : (if c then .ok i else r) = .ok j) : (c ∧ j = i) ∨ (¬ c ∧ r = .ok j) := by
  split at h
  · cases h; exact .inl ⟨by assumption, rfl⟩
  · exact .inr ⟨by assumption, h⟩

/-- The decoder's only error names the word it was given (R79). -/
theorem decode_error {w : Word} {e : DecodeError} (h : decode w = .error e) : e = .unknown w := by
  unfold decode at h
  iterate 35 replace h := (decode_line_error h).2
  cases h
  rfl

end Sys2Proof
end

