-- ==== Sys2Proof/Laws/State.lean ====
section
/-! SUPPORT. What each update of the state does to each field, and to each register and key read: all by definition. -/

namespace Sys2Proof.Machine

@[simp] theorem setI_mem (w : Word) (s : State) : (setI w s).mem = s.mem := rfl
@[simp] theorem setI_v (w : Word) (s : State) : (setI w s).v = s.v := rfl
@[simp] theorem setI_i (w : Word) (s : State) : (setI w s).i = w := rfl
@[simp] theorem setI_pc (w : Word) (s : State) : (setI w s).pc = s.pc := rfl
@[simp] theorem setI_stack (w : Word) (s : State) : (setI w s).stack = s.stack := rfl
@[simp] theorem setI_dt (w : Word) (s : State) : (setI w s).dt = s.dt := rfl
@[simp] theorem setI_st (w : Word) (s : State) : (setI w s).st = s.st := rfl
@[simp] theorem setI_fb (w : Word) (s : State) : (setI w s).fb = s.fb := rfl
@[simp] theorem setI_keys (w : Word) (s : State) : (setI w s).keys = s.keys := rfl
@[simp] theorem setI_drv (w : Word) (s : State) : (setI w s).drv = s.drv := rfl
@[simp] theorem setI_pending (w : Word) (s : State) : (setI w s).pending = s.pending := rfl
@[simp] theorem setI_draws (w : Word) (s : State) : (setI w s).draws = s.draws := rfl
@[simp] theorem setI_session (w : Word) (s : State) : (setI w s).session = s.session := rfl
@[simp] theorem getV_setI (w : Word) (s : State) (r : Nibble) : getV (setI w s) r = getV s r := rfl
@[simp] theorem keyPressed_setI (w : Word) (s : State) (j : Nibble) : keyPressed (setI w s) j = keyPressed s j := rfl

@[simp] theorem setStack_mem (l : List Word) (s : State) : (setStack l s).mem = s.mem := rfl
@[simp] theorem setStack_v (l : List Word) (s : State) : (setStack l s).v = s.v := rfl
@[simp] theorem setStack_i (l : List Word) (s : State) : (setStack l s).i = s.i := rfl
@[simp] theorem setStack_pc (l : List Word) (s : State) : (setStack l s).pc = s.pc := rfl
@[simp] theorem setStack_stack (l : List Word) (s : State) : (setStack l s).stack = l := rfl
@[simp] theorem setStack_dt (l : List Word) (s : State) : (setStack l s).dt = s.dt := rfl
@[simp] theorem setStack_st (l : List Word) (s : State) : (setStack l s).st = s.st := rfl
@[simp] theorem setStack_fb (l : List Word) (s : State) : (setStack l s).fb = s.fb := rfl
@[simp] theorem setStack_keys (l : List Word) (s : State) : (setStack l s).keys = s.keys := rfl
@[simp] theorem setStack_drv (l : List Word) (s : State) : (setStack l s).drv = s.drv := rfl
@[simp] theorem setStack_pending (l : List Word) (s : State) : (setStack l s).pending = s.pending := rfl
@[simp] theorem setStack_draws (l : List Word) (s : State) : (setStack l s).draws = s.draws := rfl
@[simp] theorem setStack_session (l : List Word) (s : State) : (setStack l s).session = s.session := rfl
@[simp] theorem getV_setStack (l : List Word) (s : State) (r : Nibble) : getV (setStack l s) r = getV s r := rfl
@[simp] theorem keyPressed_setStack (l : List Word) (s : State) (j : Nibble) : keyPressed (setStack l s) j = keyPressed s j := rfl

@[simp] theorem setDt_mem (b : Byte) (s : State) : (setDt b s).mem = s.mem := rfl
@[simp] theorem setDt_v (b : Byte) (s : State) : (setDt b s).v = s.v := rfl
@[simp] theorem setDt_i (b : Byte) (s : State) : (setDt b s).i = s.i := rfl
@[simp] theorem setDt_pc (b : Byte) (s : State) : (setDt b s).pc = s.pc := rfl
@[simp] theorem setDt_stack (b : Byte) (s : State) : (setDt b s).stack = s.stack := rfl
@[simp] theorem setDt_dt (b : Byte) (s : State) : (setDt b s).dt = b := rfl
@[simp] theorem setDt_st (b : Byte) (s : State) : (setDt b s).st = s.st := rfl
@[simp] theorem setDt_fb (b : Byte) (s : State) : (setDt b s).fb = s.fb := rfl
@[simp] theorem setDt_keys (b : Byte) (s : State) : (setDt b s).keys = s.keys := rfl
@[simp] theorem setDt_drv (b : Byte) (s : State) : (setDt b s).drv = s.drv := rfl
@[simp] theorem setDt_pending (b : Byte) (s : State) : (setDt b s).pending = s.pending := rfl
@[simp] theorem setDt_draws (b : Byte) (s : State) : (setDt b s).draws = s.draws := rfl
@[simp] theorem setDt_session (b : Byte) (s : State) : (setDt b s).session = s.session := rfl
@[simp] theorem getV_setDt (b : Byte) (s : State) (r : Nibble) : getV (setDt b s) r = getV s r := rfl
@[simp] theorem keyPressed_setDt (b : Byte) (s : State) (j : Nibble) : keyPressed (setDt b s) j = keyPressed s j := rfl

@[simp] theorem setSt_mem (b : Byte) (s : State) : (setSt b s).mem = s.mem := rfl
@[simp] theorem setSt_v (b : Byte) (s : State) : (setSt b s).v = s.v := rfl
@[simp] theorem setSt_i (b : Byte) (s : State) : (setSt b s).i = s.i := rfl
@[simp] theorem setSt_pc (b : Byte) (s : State) : (setSt b s).pc = s.pc := rfl
@[simp] theorem setSt_stack (b : Byte) (s : State) : (setSt b s).stack = s.stack := rfl
@[simp] theorem setSt_dt (b : Byte) (s : State) : (setSt b s).dt = s.dt := rfl
@[simp] theorem setSt_st (b : Byte) (s : State) : (setSt b s).st = b := rfl
@[simp] theorem setSt_fb (b : Byte) (s : State) : (setSt b s).fb = s.fb := rfl
@[simp] theorem setSt_keys (b : Byte) (s : State) : (setSt b s).keys = s.keys := rfl
@[simp] theorem setSt_drv (b : Byte) (s : State) : (setSt b s).drv = s.drv := rfl
@[simp] theorem setSt_pending (b : Byte) (s : State) : (setSt b s).pending = s.pending := rfl
@[simp] theorem setSt_draws (b : Byte) (s : State) : (setSt b s).draws = s.draws := rfl
@[simp] theorem setSt_session (b : Byte) (s : State) : (setSt b s).session = s.session := rfl
@[simp] theorem getV_setSt (b : Byte) (s : State) (r : Nibble) : getV (setSt b s) r = getV s r := rfl
@[simp] theorem keyPressed_setSt (b : Byte) (s : State) (j : Nibble) : keyPressed (setSt b s) j = keyPressed s j := rfl

@[simp] theorem setMem_mem (m : Memory) (s : State) : (setMem m s).mem = m := rfl
@[simp] theorem setMem_v (m : Memory) (s : State) : (setMem m s).v = s.v := rfl
@[simp] theorem setMem_i (m : Memory) (s : State) : (setMem m s).i = s.i := rfl
@[simp] theorem setMem_pc (m : Memory) (s : State) : (setMem m s).pc = s.pc := rfl
@[simp] theorem setMem_stack (m : Memory) (s : State) : (setMem m s).stack = s.stack := rfl
@[simp] theorem setMem_dt (m : Memory) (s : State) : (setMem m s).dt = s.dt := rfl
@[simp] theorem setMem_st (m : Memory) (s : State) : (setMem m s).st = s.st := rfl
@[simp] theorem setMem_fb (m : Memory) (s : State) : (setMem m s).fb = s.fb := rfl
@[simp] theorem setMem_keys (m : Memory) (s : State) : (setMem m s).keys = s.keys := rfl
@[simp] theorem setMem_drv (m : Memory) (s : State) : (setMem m s).drv = s.drv := rfl
@[simp] theorem setMem_pending (m : Memory) (s : State) : (setMem m s).pending = s.pending := rfl
@[simp] theorem setMem_draws (m : Memory) (s : State) : (setMem m s).draws = s.draws := rfl
@[simp] theorem setMem_session (m : Memory) (s : State) : (setMem m s).session = s.session := rfl
@[simp] theorem getV_setMem (m : Memory) (s : State) (r : Nibble) : getV (setMem m s) r = getV s r := rfl
@[simp] theorem keyPressed_setMem (m : Memory) (s : State) (j : Nibble) : keyPressed (setMem m s) j = keyPressed s j := rfl

@[simp] theorem setFb_mem (fb : Frame) (s : State) : (setFb fb s).mem = s.mem := rfl
@[simp] theorem setFb_v (fb : Frame) (s : State) : (setFb fb s).v = s.v := rfl
@[simp] theorem setFb_i (fb : Frame) (s : State) : (setFb fb s).i = s.i := rfl
@[simp] theorem setFb_pc (fb : Frame) (s : State) : (setFb fb s).pc = s.pc := rfl
@[simp] theorem setFb_stack (fb : Frame) (s : State) : (setFb fb s).stack = s.stack := rfl
@[simp] theorem setFb_dt (fb : Frame) (s : State) : (setFb fb s).dt = s.dt := rfl
@[simp] theorem setFb_st (fb : Frame) (s : State) : (setFb fb s).st = s.st := rfl
@[simp] theorem setFb_fb (fb : Frame) (s : State) : (setFb fb s).fb = fb := rfl
@[simp] theorem setFb_keys (fb : Frame) (s : State) : (setFb fb s).keys = s.keys := rfl
@[simp] theorem setFb_drv (fb : Frame) (s : State) : (setFb fb s).drv = s.drv := rfl
@[simp] theorem setFb_pending (fb : Frame) (s : State) : (setFb fb s).pending = s.pending := rfl
@[simp] theorem setFb_draws (fb : Frame) (s : State) : (setFb fb s).draws = s.draws := rfl
@[simp] theorem setFb_session (fb : Frame) (s : State) : (setFb fb s).session = s.session := rfl
@[simp] theorem getV_setFb (fb : Frame) (s : State) (r : Nibble) : getV (setFb fb s) r = getV s r := rfl
@[simp] theorem keyPressed_setFb (fb : Frame) (s : State) (j : Nibble) : keyPressed (setFb fb s) j = keyPressed s j := rfl

@[simp] theorem setDriver_mem (d : Driver) (p : Option Nibble) (s : State) : (setDriver d p s).mem = s.mem := rfl
@[simp] theorem setDriver_v (d : Driver) (p : Option Nibble) (s : State) : (setDriver d p s).v = s.v := rfl
@[simp] theorem setDriver_i (d : Driver) (p : Option Nibble) (s : State) : (setDriver d p s).i = s.i := rfl
@[simp] theorem setDriver_pc (d : Driver) (p : Option Nibble) (s : State) : (setDriver d p s).pc = s.pc := rfl
@[simp] theorem setDriver_stack (d : Driver) (p : Option Nibble) (s : State) : (setDriver d p s).stack = s.stack := rfl
@[simp] theorem setDriver_dt (d : Driver) (p : Option Nibble) (s : State) : (setDriver d p s).dt = s.dt := rfl
@[simp] theorem setDriver_st (d : Driver) (p : Option Nibble) (s : State) : (setDriver d p s).st = s.st := rfl
@[simp] theorem setDriver_fb (d : Driver) (p : Option Nibble) (s : State) : (setDriver d p s).fb = s.fb := rfl
@[simp] theorem setDriver_keys (d : Driver) (p : Option Nibble) (s : State) : (setDriver d p s).keys = s.keys := rfl
@[simp] theorem setDriver_drv (d : Driver) (p : Option Nibble) (s : State) : (setDriver d p s).drv = d := rfl
@[simp] theorem setDriver_pending (d : Driver) (p : Option Nibble) (s : State) : (setDriver d p s).pending = p := rfl
@[simp] theorem setDriver_draws (d : Driver) (p : Option Nibble) (s : State) : (setDriver d p s).draws = s.draws := rfl
@[simp] theorem setDriver_session (d : Driver) (p : Option Nibble) (s : State) : (setDriver d p s).session = s.session := rfl
@[simp] theorem getV_setDriver (d : Driver) (p : Option Nibble) (s : State) (r : Nibble) : getV (setDriver d p s) r = getV s r := rfl
@[simp] theorem keyPressed_setDriver (d : Driver) (p : Option Nibble) (s : State) (j : Nibble) : keyPressed (setDriver d p s) j = keyPressed s j := rfl

@[simp] theorem countDraw_mem (s : State) : (countDraw s).mem = s.mem := rfl
@[simp] theorem countDraw_v (s : State) : (countDraw s).v = s.v := rfl
@[simp] theorem countDraw_i (s : State) : (countDraw s).i = s.i := rfl
@[simp] theorem countDraw_pc (s : State) : (countDraw s).pc = s.pc := rfl
@[simp] theorem countDraw_stack (s : State) : (countDraw s).stack = s.stack := rfl
@[simp] theorem countDraw_dt (s : State) : (countDraw s).dt = s.dt := rfl
@[simp] theorem countDraw_st (s : State) : (countDraw s).st = s.st := rfl
@[simp] theorem countDraw_fb (s : State) : (countDraw s).fb = s.fb := rfl
@[simp] theorem countDraw_keys (s : State) : (countDraw s).keys = s.keys := rfl
@[simp] theorem countDraw_drv (s : State) : (countDraw s).drv = s.drv := rfl
@[simp] theorem countDraw_pending (s : State) : (countDraw s).pending = s.pending := rfl
@[simp] theorem countDraw_draws (s : State) : (countDraw s).draws = s.draws + 1 := rfl
@[simp] theorem countDraw_session (s : State) : (countDraw s).session = s.session := rfl
@[simp] theorem getV_countDraw (s : State) (r : Nibble) : getV (countDraw s) r = getV s r := rfl
@[simp] theorem keyPressed_countDraw (s : State) (j : Nibble) : keyPressed (countDraw s) j = keyPressed s j := rfl

@[simp] theorem setV_mem (s : State) (x : Nibble) (b : Byte) : (setV s x b).mem = s.mem := rfl
@[simp] theorem setV_v (s : State) (x : Nibble) (b : Byte) : (setV s x b).v = s.v.set x.toNat b x.isLt := rfl
@[simp] theorem setV_i (s : State) (x : Nibble) (b : Byte) : (setV s x b).i = s.i := rfl
@[simp] theorem setV_pc (s : State) (x : Nibble) (b : Byte) : (setV s x b).pc = s.pc := rfl
@[simp] theorem setV_stack (s : State) (x : Nibble) (b : Byte) : (setV s x b).stack = s.stack := rfl
@[simp] theorem setV_dt (s : State) (x : Nibble) (b : Byte) : (setV s x b).dt = s.dt := rfl
@[simp] theorem setV_st (s : State) (x : Nibble) (b : Byte) : (setV s x b).st = s.st := rfl
@[simp] theorem setV_fb (s : State) (x : Nibble) (b : Byte) : (setV s x b).fb = s.fb := rfl
@[simp] theorem setV_keys (s : State) (x : Nibble) (b : Byte) : (setV s x b).keys = s.keys := rfl
@[simp] theorem setV_drv (s : State) (x : Nibble) (b : Byte) : (setV s x b).drv = s.drv := rfl
@[simp] theorem setV_pending (s : State) (x : Nibble) (b : Byte) : (setV s x b).pending = s.pending := rfl
@[simp] theorem setV_draws (s : State) (x : Nibble) (b : Byte) : (setV s x b).draws = s.draws := rfl
@[simp] theorem setV_session (s : State) (x : Nibble) (b : Byte) : (setV s x b).session = s.session := rfl
@[simp] theorem keyPressed_setV (s : State) (x : Nibble) (b : Byte) (j : Nibble) : keyPressed (setV s x b) j = keyPressed s j := rfl

@[simp] theorem advance_mem (s : State) : (advance s).mem = s.mem := rfl
@[simp] theorem advance_v (s : State) : (advance s).v = s.v := rfl
@[simp] theorem advance_i (s : State) : (advance s).i = s.i := rfl
@[simp] theorem advance_pc (s : State) : (advance s).pc = s.pc + 2#16 := rfl
@[simp] theorem advance_stack (s : State) : (advance s).stack = s.stack := rfl
@[simp] theorem advance_dt (s : State) : (advance s).dt = s.dt := rfl
@[simp] theorem advance_st (s : State) : (advance s).st = s.st := rfl
@[simp] theorem advance_fb (s : State) : (advance s).fb = s.fb := rfl
@[simp] theorem advance_keys (s : State) : (advance s).keys = s.keys := rfl
@[simp] theorem advance_drv (s : State) : (advance s).drv = s.drv := rfl
@[simp] theorem advance_pending (s : State) : (advance s).pending = s.pending := rfl
@[simp] theorem advance_draws (s : State) : (advance s).draws = s.draws := rfl
@[simp] theorem advance_session (s : State) : (advance s).session = s.session := rfl
@[simp] theorem getV_advance (s : State) (r : Nibble) : getV (advance s) r = getV s r := rfl
@[simp] theorem keyPressed_advance (s : State) (j : Nibble) : keyPressed (advance s) j = keyPressed s j := rfl

@[simp] theorem skipIf_mem (c : Bool) (s : State) : (skipIf c s).mem = s.mem := rfl
@[simp] theorem skipIf_v (c : Bool) (s : State) : (skipIf c s).v = s.v := rfl
@[simp] theorem skipIf_i (c : Bool) (s : State) : (skipIf c s).i = s.i := rfl
@[simp] theorem skipIf_pc (c : Bool) (s : State) : (skipIf c s).pc = if c then s.pc + 4#16 else s.pc + 2#16 := rfl
@[simp] theorem skipIf_stack (c : Bool) (s : State) : (skipIf c s).stack = s.stack := rfl
@[simp] theorem skipIf_dt (c : Bool) (s : State) : (skipIf c s).dt = s.dt := rfl
@[simp] theorem skipIf_st (c : Bool) (s : State) : (skipIf c s).st = s.st := rfl
@[simp] theorem skipIf_fb (c : Bool) (s : State) : (skipIf c s).fb = s.fb := rfl
@[simp] theorem skipIf_keys (c : Bool) (s : State) : (skipIf c s).keys = s.keys := rfl
@[simp] theorem skipIf_drv (c : Bool) (s : State) : (skipIf c s).drv = s.drv := rfl
@[simp] theorem skipIf_pending (c : Bool) (s : State) : (skipIf c s).pending = s.pending := rfl
@[simp] theorem skipIf_draws (c : Bool) (s : State) : (skipIf c s).draws = s.draws := rfl
@[simp] theorem skipIf_session (c : Bool) (s : State) : (skipIf c s).session = s.session := rfl
@[simp] theorem getV_skipIf (c : Bool) (s : State) (r : Nibble) : getV (skipIf c s) r = getV s r := rfl
@[simp] theorem keyPressed_skipIf (c : Bool) (s : State) (j : Nibble) : keyPressed (skipIf c s) j = keyPressed s j := rfl

@[simp] theorem jumpTo_mem (a : Word) (s : State) : (jumpTo a s).mem = s.mem := rfl
@[simp] theorem jumpTo_v (a : Word) (s : State) : (jumpTo a s).v = s.v := rfl
@[simp] theorem jumpTo_i (a : Word) (s : State) : (jumpTo a s).i = s.i := rfl
@[simp] theorem jumpTo_pc (a : Word) (s : State) : (jumpTo a s).pc = a := rfl
@[simp] theorem jumpTo_stack (a : Word) (s : State) : (jumpTo a s).stack = s.stack := rfl
@[simp] theorem jumpTo_dt (a : Word) (s : State) : (jumpTo a s).dt = s.dt := rfl
@[simp] theorem jumpTo_st (a : Word) (s : State) : (jumpTo a s).st = s.st := rfl
@[simp] theorem jumpTo_fb (a : Word) (s : State) : (jumpTo a s).fb = s.fb := rfl
@[simp] theorem jumpTo_keys (a : Word) (s : State) : (jumpTo a s).keys = s.keys := rfl
@[simp] theorem jumpTo_drv (a : Word) (s : State) : (jumpTo a s).drv = s.drv := rfl
@[simp] theorem jumpTo_pending (a : Word) (s : State) : (jumpTo a s).pending = s.pending := rfl
@[simp] theorem jumpTo_draws (a : Word) (s : State) : (jumpTo a s).draws = s.draws := rfl
@[simp] theorem jumpTo_session (a : Word) (s : State) : (jumpTo a s).session = s.session := rfl
@[simp] theorem getV_jumpTo (a : Word) (s : State) (r : Nibble) : getV (jumpTo a s) r = getV s r := rfl
@[simp] theorem keyPressed_jumpTo (a : Word) (s : State) (j : Nibble) : keyPressed (jumpTo a s) j = keyPressed s j := rfl

@[simp] theorem haltWith_mem (k : ErrorKind) (o : Option Word) (a : Option Nat) (s : State) : (haltWith k o a s).mem = s.mem := rfl
@[simp] theorem haltWith_v (k : ErrorKind) (o : Option Word) (a : Option Nat) (s : State) : (haltWith k o a s).v = s.v := rfl
@[simp] theorem haltWith_i (k : ErrorKind) (o : Option Word) (a : Option Nat) (s : State) : (haltWith k o a s).i = s.i := rfl
@[simp] theorem haltWith_pc (k : ErrorKind) (o : Option Word) (a : Option Nat) (s : State) : (haltWith k o a s).pc = s.pc := rfl
@[simp] theorem haltWith_stack (k : ErrorKind) (o : Option Word) (a : Option Nat) (s : State) : (haltWith k o a s).stack = s.stack := rfl
@[simp] theorem haltWith_dt (k : ErrorKind) (o : Option Word) (a : Option Nat) (s : State) : (haltWith k o a s).dt = s.dt := rfl
@[simp] theorem haltWith_st (k : ErrorKind) (o : Option Word) (a : Option Nat) (s : State) : (haltWith k o a s).st = s.st := rfl
@[simp] theorem haltWith_fb (k : ErrorKind) (o : Option Word) (a : Option Nat) (s : State) : (haltWith k o a s).fb = s.fb := rfl
@[simp] theorem haltWith_keys (k : ErrorKind) (o : Option Word) (a : Option Nat) (s : State) : (haltWith k o a s).keys = s.keys := rfl
@[simp] theorem haltWith_drv (k : ErrorKind) (o : Option Word) (a : Option Nat) (s : State) : (haltWith k o a s).drv = .halted { kind := k, pc := s.pc, opcode := o, addr := a } := rfl
@[simp] theorem haltWith_pending (k : ErrorKind) (o : Option Word) (a : Option Nat) (s : State) : (haltWith k o a s).pending = s.pending := rfl
@[simp] theorem haltWith_draws (k : ErrorKind) (o : Option Word) (a : Option Nat) (s : State) : (haltWith k o a s).draws = s.draws := rfl
@[simp] theorem haltWith_session (k : ErrorKind) (o : Option Word) (a : Option Nat) (s : State) : (haltWith k o a s).session = s.session := rfl
@[simp] theorem getV_haltWith (k : ErrorKind) (o : Option Word) (a : Option Nat) (s : State) (r : Nibble) : getV (haltWith k o a s) r = getV s r := rfl
@[simp] theorem keyPressed_haltWith (k : ErrorKind) (o : Option Word) (a : Option Nat) (s : State) (j : Nibble) : keyPressed (haltWith k o a s) j = keyPressed s j := rfl

@[simp] theorem raise_mem (k : ErrorKind) (i : Instr) (a : Option Nat) (s : State) : (raise k i a s).mem = s.mem := rfl
@[simp] theorem raise_v (k : ErrorKind) (i : Instr) (a : Option Nat) (s : State) : (raise k i a s).v = s.v := rfl
@[simp] theorem raise_i (k : ErrorKind) (i : Instr) (a : Option Nat) (s : State) : (raise k i a s).i = s.i := rfl
@[simp] theorem raise_pc (k : ErrorKind) (i : Instr) (a : Option Nat) (s : State) : (raise k i a s).pc = s.pc := rfl
@[simp] theorem raise_stack (k : ErrorKind) (i : Instr) (a : Option Nat) (s : State) : (raise k i a s).stack = s.stack := rfl
@[simp] theorem raise_dt (k : ErrorKind) (i : Instr) (a : Option Nat) (s : State) : (raise k i a s).dt = s.dt := rfl
@[simp] theorem raise_st (k : ErrorKind) (i : Instr) (a : Option Nat) (s : State) : (raise k i a s).st = s.st := rfl
@[simp] theorem raise_fb (k : ErrorKind) (i : Instr) (a : Option Nat) (s : State) : (raise k i a s).fb = s.fb := rfl
@[simp] theorem raise_keys (k : ErrorKind) (i : Instr) (a : Option Nat) (s : State) : (raise k i a s).keys = s.keys := rfl
@[simp] theorem raise_drv (k : ErrorKind) (i : Instr) (a : Option Nat) (s : State) : (raise k i a s).drv = .halted { kind := k, pc := s.pc, opcode := some (encode i), addr := a } := rfl
@[simp] theorem raise_pending (k : ErrorKind) (i : Instr) (a : Option Nat) (s : State) : (raise k i a s).pending = s.pending := rfl
@[simp] theorem raise_draws (k : ErrorKind) (i : Instr) (a : Option Nat) (s : State) : (raise k i a s).draws = s.draws := rfl
@[simp] theorem raise_session (k : ErrorKind) (i : Instr) (a : Option Nat) (s : State) : (raise k i a s).session = s.session := rfl
@[simp] theorem getV_raise (k : ErrorKind) (i : Instr) (a : Option Nat) (s : State) (r : Nibble) : getV (raise k i a s) r = getV s r := rfl
@[simp] theorem keyPressed_raise (k : ErrorKind) (i : Instr) (a : Option Nat) (s : State) (j : Nibble) : keyPressed (raise k i a s) j = keyPressed s j := rfl

@[simp] theorem setFlag_mem (c : Bool) (s : State) : (setFlag c s).mem = s.mem := rfl
@[simp] theorem setFlag_v (c : Bool) (s : State) : (setFlag c s).v = s.v.set vf.toNat (flagByte c) vf.isLt := rfl
@[simp] theorem setFlag_i (c : Bool) (s : State) : (setFlag c s).i = s.i := rfl
@[simp] theorem setFlag_pc (c : Bool) (s : State) : (setFlag c s).pc = s.pc := rfl
@[simp] theorem setFlag_stack (c : Bool) (s : State) : (setFlag c s).stack = s.stack := rfl
@[simp] theorem setFlag_dt (c : Bool) (s : State) : (setFlag c s).dt = s.dt := rfl
@[simp] theorem setFlag_st (c : Bool) (s : State) : (setFlag c s).st = s.st := rfl
@[simp] theorem setFlag_fb (c : Bool) (s : State) : (setFlag c s).fb = s.fb := rfl
@[simp] theorem setFlag_keys (c : Bool) (s : State) : (setFlag c s).keys = s.keys := rfl
@[simp] theorem setFlag_drv (c : Bool) (s : State) : (setFlag c s).drv = s.drv := rfl
@[simp] theorem setFlag_pending (c : Bool) (s : State) : (setFlag c s).pending = s.pending := rfl
@[simp] theorem setFlag_draws (c : Bool) (s : State) : (setFlag c s).draws = s.draws := rfl
@[simp] theorem setFlag_session (c : Bool) (s : State) : (setFlag c s).session = s.session := rfl
@[simp] theorem keyPressed_setFlag (c : Bool) (s : State) (j : Nibble) : keyPressed (setFlag c s) j = keyPressed s j := rfl

@[simp] theorem setResultAndFlag_mem (x : Nibble) (r : Byte) (c : Bool) (s : State) : (setResultAndFlag x r c s).mem = s.mem := rfl
@[simp] theorem setResultAndFlag_v (x : Nibble) (r : Byte) (c : Bool) (s : State) : (setResultAndFlag x r c s).v = (s.v.set x.toNat r x.isLt).set vf.toNat (flagByte c) vf.isLt := rfl
@[simp] theorem setResultAndFlag_i (x : Nibble) (r : Byte) (c : Bool) (s : State) : (setResultAndFlag x r c s).i = s.i := rfl
@[simp] theorem setResultAndFlag_pc (x : Nibble) (r : Byte) (c : Bool) (s : State) : (setResultAndFlag x r c s).pc = s.pc := rfl
@[simp] theorem setResultAndFlag_stack (x : Nibble) (r : Byte) (c : Bool) (s : State) : (setResultAndFlag x r c s).stack = s.stack := rfl
@[simp] theorem setResultAndFlag_dt (x : Nibble) (r : Byte) (c : Bool) (s : State) : (setResultAndFlag x r c s).dt = s.dt := rfl
@[simp] theorem setResultAndFlag_st (x : Nibble) (r : Byte) (c : Bool) (s : State) : (setResultAndFlag x r c s).st = s.st := rfl
@[simp] theorem setResultAndFlag_fb (x : Nibble) (r : Byte) (c : Bool) (s : State) : (setResultAndFlag x r c s).fb = s.fb := rfl
@[simp] theorem setResultAndFlag_keys (x : Nibble) (r : Byte) (c : Bool) (s : State) : (setResultAndFlag x r c s).keys = s.keys := rfl
@[simp] theorem setResultAndFlag_drv (x : Nibble) (r : Byte) (c : Bool) (s : State) : (setResultAndFlag x r c s).drv = s.drv := rfl
@[simp] theorem setResultAndFlag_pending (x : Nibble) (r : Byte) (c : Bool) (s : State) : (setResultAndFlag x r c s).pending = s.pending := rfl
@[simp] theorem setResultAndFlag_draws (x : Nibble) (r : Byte) (c : Bool) (s : State) : (setResultAndFlag x r c s).draws = s.draws := rfl
@[simp] theorem setResultAndFlag_session (x : Nibble) (r : Byte) (c : Bool) (s : State) : (setResultAndFlag x r c s).session = s.session := rfl
@[simp] theorem keyPressed_setResultAndFlag (x : Nibble) (r : Byte) (c : Bool) (s : State) (j : Nibble) : keyPressed (setResultAndFlag x r c s) j = keyPressed s j := rfl

@[simp] theorem tickTimers_mem (s : State) : (tickTimers s).mem = s.mem := rfl
@[simp] theorem tickTimers_v (s : State) : (tickTimers s).v = s.v := rfl
@[simp] theorem tickTimers_i (s : State) : (tickTimers s).i = s.i := rfl
@[simp] theorem tickTimers_pc (s : State) : (tickTimers s).pc = s.pc := rfl
@[simp] theorem tickTimers_stack (s : State) : (tickTimers s).stack = s.stack := rfl
@[simp] theorem tickTimers_dt (s : State) : (tickTimers s).dt = tickDown s.dt := rfl
@[simp] theorem tickTimers_st (s : State) : (tickTimers s).st = tickDown s.st := rfl
@[simp] theorem tickTimers_fb (s : State) : (tickTimers s).fb = s.fb := rfl
@[simp] theorem tickTimers_keys (s : State) : (tickTimers s).keys = s.keys := rfl
@[simp] theorem tickTimers_drv (s : State) : (tickTimers s).drv = s.drv := rfl
@[simp] theorem tickTimers_pending (s : State) : (tickTimers s).pending = s.pending := rfl
@[simp] theorem tickTimers_draws (s : State) : (tickTimers s).draws = s.draws := rfl
@[simp] theorem tickTimers_session (s : State) : (tickTimers s).session = s.session := rfl
@[simp] theorem getV_tickTimers (s : State) (r : Nibble) : getV (tickTimers s) r = getV s r := rfl
@[simp] theorem keyPressed_tickTimers (s : State) (j : Nibble) : keyPressed (tickTimers s) j = keyPressed s j := rfl

@[simp] theorem setKeyState_mem (k : Nibble) (p : Bool) (s : State) : (setKeyState k p s).mem = s.mem := rfl
@[simp] theorem setKeyState_v (k : Nibble) (p : Bool) (s : State) : (setKeyState k p s).v = s.v := rfl
@[simp] theorem setKeyState_i (k : Nibble) (p : Bool) (s : State) : (setKeyState k p s).i = s.i := rfl
@[simp] theorem setKeyState_pc (k : Nibble) (p : Bool) (s : State) : (setKeyState k p s).pc = s.pc := rfl
@[simp] theorem setKeyState_stack (k : Nibble) (p : Bool) (s : State) : (setKeyState k p s).stack = s.stack := rfl
@[simp] theorem setKeyState_dt (k : Nibble) (p : Bool) (s : State) : (setKeyState k p s).dt = s.dt := rfl
@[simp] theorem setKeyState_st (k : Nibble) (p : Bool) (s : State) : (setKeyState k p s).st = s.st := rfl
@[simp] theorem setKeyState_fb (k : Nibble) (p : Bool) (s : State) : (setKeyState k p s).fb = s.fb := rfl
@[simp] theorem setKeyState_keys (k : Nibble) (p : Bool) (s : State) : (setKeyState k p s).keys = s.keys.set k.toNat p k.isLt := rfl
@[simp] theorem setKeyState_drv (k : Nibble) (p : Bool) (s : State) : (setKeyState k p s).drv = s.drv := rfl
@[simp] theorem setKeyState_pending (k : Nibble) (p : Bool) (s : State) : (setKeyState k p s).pending = latchKey k p s := rfl
@[simp] theorem setKeyState_draws (k : Nibble) (p : Bool) (s : State) : (setKeyState k p s).draws = s.draws := rfl
@[simp] theorem setKeyState_session (k : Nibble) (p : Bool) (s : State) : (setKeyState k p s).session = s.session := rfl
@[simp] theorem getV_setKeyState (k : Nibble) (p : Bool) (s : State) (r : Nibble) : getV (setKeyState k p s) r = getV s r := rfl

@[simp] theorem placeWord_mem (w : Word) (s : State) : (placeWord w s).mem = (s.mem.write s.pc.toNat (highByte w)).write (s.pc.toNat + 1) (lowByte w) := rfl
@[simp] theorem placeWord_v (w : Word) (s : State) : (placeWord w s).v = s.v := rfl
@[simp] theorem placeWord_i (w : Word) (s : State) : (placeWord w s).i = s.i := rfl
@[simp] theorem placeWord_pc (w : Word) (s : State) : (placeWord w s).pc = s.pc := rfl
@[simp] theorem placeWord_stack (w : Word) (s : State) : (placeWord w s).stack = s.stack := rfl
@[simp] theorem placeWord_dt (w : Word) (s : State) : (placeWord w s).dt = s.dt := rfl
@[simp] theorem placeWord_st (w : Word) (s : State) : (placeWord w s).st = s.st := rfl
@[simp] theorem placeWord_fb (w : Word) (s : State) : (placeWord w s).fb = s.fb := rfl
@[simp] theorem placeWord_keys (w : Word) (s : State) : (placeWord w s).keys = s.keys := rfl
@[simp] theorem placeWord_drv (w : Word) (s : State) : (placeWord w s).drv = .ready := rfl
@[simp] theorem placeWord_pending (w : Word) (s : State) : (placeWord w s).pending = s.pending := rfl
@[simp] theorem placeWord_draws (w : Word) (s : State) : (placeWord w s).draws = s.draws := rfl
@[simp] theorem placeWord_session (w : Word) (s : State) : (placeWord w s).session = s.session := rfl
@[simp] theorem getV_placeWord (w : Word) (s : State) (r : Nibble) : getV (placeWord w s) r = getV s r := rfl
@[simp] theorem keyPressed_placeWord (w : Word) (s : State) (j : Nibble) : keyPressed (placeWord w s) j = keyPressed s j := rfl

end Sys2Proof.Machine
end

