-- ==== Sys2Proof/Laws/Registers.lean ====
section
/-! SUPPORT. Reading a register after a write, the flag order of R130, and the register load of FX65. -/

namespace Sys2Proof.Machine

theorem getV_setV (s : State) (x r : Nibble) (b : Byte) : getV (setV s x b) r = if r = x then b else getV s r := by
  simp only [getV, setV, Vector.getElem_set]
  split <;> rename_i h
  · rw [if_pos (BitVec.eq_of_toNat_eq h.symm)]
  · rw [if_neg (fun e => h (by rw [e]))]

@[simp] theorem getV_setV_same (s : State) (x : Nibble) (b : Byte) : getV (setV s x b) x = b := by simp [getV_setV]

theorem getV_setV_other (s : State) {x r : Nibble} (b : Byte) (h : r ≠ x) : getV (setV s x b) r = getV s r := by
  simp [getV_setV, h]

theorem getV_setFlag (c : Bool) (s : State) (r : Nibble) :
    getV (setFlag c s) r = if r = vf then flagByte c else getV s r := getV_setV s vf r (flagByte c)

/-- R130: VF ends as the flag whatever `x` is; another `x` ends as the result. -/
theorem getV_setResultAndFlag (x r : Nibble) (b : Byte) (c : Bool) (s : State) :
    getV (setResultAndFlag x b c s) r = if r = vf then flagByte c else if r = x then b else getV s r := by
  simp [setResultAndFlag, getV_setFlag, getV_setV]

/-- A register read sees the register file only. -/
theorem getV_congr {s t : State} (h : t.v = s.v) (r : Nibble) : getV t r = getV s r := by simp [getV, h]

/-- A key read sees the keypad only. -/
theorem keyPressed_congr {s t : State} (h : t.keys = s.keys) (k : Nibble) : keyPressed t k = keyPressed s k := by
  simp [keyPressed, h]

theorem keyPressed_setKeyState (k j : Nibble) (p : Bool) (s : State) :
    keyPressed (setKeyState k p s) j = if j = k then p else keyPressed s j := by
  simp only [keyPressed, setKeyState_keys, Vector.getElem_set]
  split <;> rename_i h
  · rw [if_pos (BitVec.eq_of_toNat_eq h.symm)]
  · rw [if_neg (fun e => h (by rw [e]))]

/-- All FX65's copy does: registers 0 to n-1 are loaded, the others kept (R195). -/
theorem getV_loadRegisters (f : Nat → Byte) (s : State) (r : Nibble) (n : Nat) (hn : n ≤ 16) :
    getV (loadRegisters f n s) r = if r.toNat < n then f r.toNat else getV s r := by
  induction n with
  | zero => simp [loadRegisters]
  | succ n ih =>
    have hk : (BitVec.ofNat 4 n).toNat = n := by simp; omega
    rw [loadRegisters, getV_setV, ih (by omega)]
    by_cases h : r = BitVec.ofNat 4 n
    · subst h; simp [hk]
    · have : r.toNat ≠ n := fun e => h (BitVec.eq_of_toNat_eq (by omega))
      simp only [h, if_false]
      split <;> split <;> first | rfl | omega

/-! FX65's copy writes registers only. -/

@[simp] theorem loadRegisters_mem (g : Nat → Byte) (n : Nat) (s : State) : (loadRegisters g n s).mem = s.mem := by
  induction n with
  | zero => rfl
  | succ n ih => exact ih

@[simp] theorem loadRegisters_i (g : Nat → Byte) (n : Nat) (s : State) : (loadRegisters g n s).i = s.i := by
  induction n with
  | zero => rfl
  | succ n ih => exact ih

@[simp] theorem loadRegisters_pc (g : Nat → Byte) (n : Nat) (s : State) : (loadRegisters g n s).pc = s.pc := by
  induction n with
  | zero => rfl
  | succ n ih => exact ih

@[simp] theorem loadRegisters_stack (g : Nat → Byte) (n : Nat) (s : State) : (loadRegisters g n s).stack = s.stack := by
  induction n with
  | zero => rfl
  | succ n ih => exact ih

@[simp] theorem loadRegisters_dt (g : Nat → Byte) (n : Nat) (s : State) : (loadRegisters g n s).dt = s.dt := by
  induction n with
  | zero => rfl
  | succ n ih => exact ih

@[simp] theorem loadRegisters_st (g : Nat → Byte) (n : Nat) (s : State) : (loadRegisters g n s).st = s.st := by
  induction n with
  | zero => rfl
  | succ n ih => exact ih

@[simp] theorem loadRegisters_fb (g : Nat → Byte) (n : Nat) (s : State) : (loadRegisters g n s).fb = s.fb := by
  induction n with
  | zero => rfl
  | succ n ih => exact ih

@[simp] theorem loadRegisters_keys (g : Nat → Byte) (n : Nat) (s : State) : (loadRegisters g n s).keys = s.keys := by
  induction n with
  | zero => rfl
  | succ n ih => exact ih

@[simp] theorem loadRegisters_drv (g : Nat → Byte) (n : Nat) (s : State) : (loadRegisters g n s).drv = s.drv := by
  induction n with
  | zero => rfl
  | succ n ih => exact ih

@[simp] theorem loadRegisters_pending (g : Nat → Byte) (n : Nat) (s : State) : (loadRegisters g n s).pending = s.pending := by
  induction n with
  | zero => rfl
  | succ n ih => exact ih

@[simp] theorem loadRegisters_draws (g : Nat → Byte) (n : Nat) (s : State) : (loadRegisters g n s).draws = s.draws := by
  induction n with
  | zero => rfl
  | succ n ih => exact ih

@[simp] theorem loadRegisters_session (g : Nat → Byte) (n : Nat) (s : State) : (loadRegisters g n s).session = s.session := by
  induction n with
  | zero => rfl
  | succ n ih => exact ih

end Sys2Proof.Machine
end

