-- ==== Sys2Proof/Laws/Frame.lean ====
section
/-! SUPPORT. How a frame is shown: from equality of the fields themselves. -/

namespace Sys2Proof.Machine

/-- `OnlyChanges` from equal fields: memory, framebuffer and keys equal as data read the same everywhere. -/
theorem onlyChanges_of_fields {parts : List Part} {regs : List Nibble} {s t : State}
    (hv : ∀ r, r ∉ regs → getV t r = getV s r) (hmem : .memory ∉ parts → t.mem = s.mem) (hi : .index ∉ parts → t.i = s.i)
    (hstack : .stack ∉ parts → t.stack = s.stack) (hdt : .delay ∉ parts → t.dt = s.dt) (hst : .sound ∉ parts → t.st = s.st)
    (hfb : .screen ∉ parts → t.fb = s.fb) (hkeys : .keys ∉ parts → t.keys = s.keys) (hdrv : .driver ∉ parts → t.drv = s.drv)
    (hpend : .latch ∉ parts → t.pending = s.pending) (hdraws : .draws ∉ parts → t.draws = s.draws)
    (hsession : .session ∉ parts → t.session = s.session) :
    OnlyChanges parts regs s t :=
  ⟨hv, fun h a => by rw [hmem h], hi, hstack, hdt, hst, fun h x y => by rw [hfb h], fun h k => keyPressed_congr (hkeys h) k,
    hdrv, hpend, hdraws, hsession⟩

/-- Nothing changes from a state to itself. -/
theorem onlyChanges_refl (parts : List Part) (regs : List Nibble) (s : State) : OnlyChanges parts regs s s := by
  simp [OnlyChanges]

end Sys2Proof.Machine
end

