-- ==== Sys2Proof/Laws/Memory.lean ====
section
/-! SUPPORT. The laws of memory: read after write, what the stores and the loader's copy leave, and that every operation on
memory keeps the canonical form. -/

namespace Sys2Proof.Machine

/-- Below its first cell memory reads as right after reset. -/
theorem read_below {m : Memory} {lo : Nat} (h : m.wfFrom lo = true) {a : Nat} (ha : a < lo) : m.read a = initialByte a := by
  induction m generalizing lo with
  | nil => rfl
  | cons c rest ih =>
    obtain ⟨d, w⟩ := c
    simp only [Memory.wfFrom, Bool.and_eq_true, decide_eq_true_eq] at h
    rw [Memory.read, if_neg (by omega)]
    exact ih h.2 (by omega)

/-- A canonical memory is canonical from any lower bound its cells respect. -/
theorem wfFrom_mono {m : Memory} {lo lo' : Nat} (h : m.wfFrom lo = true) (hl : lo' ≤ lo) : m.wfFrom lo' = true := by
  cases m with
  | nil => rfl
  | cons c rest =>
    obtain ⟨d, w⟩ := c
    simp only [Memory.wfFrom, Bool.and_eq_true, decide_eq_true_eq] at h ⊢
    exact ⟨⟨⟨by omega, h.1.1.2⟩, h.1.2⟩, h.2⟩

theorem read_write_from {m : Memory} {lo : Nat} (h : m.wfFrom lo = true) (a : Nat) (v : Byte) (b : Nat) :
    (m.write a v).read b = if b = a then v else m.read b := by
  induction m generalizing lo with
  | nil =>
    simp only [Memory.write]
    split <;> rename_i hv
    · by_cases hb : b = a
      · subst hb; simp [Memory.read, hv]
      · simp [hb]
    · simp only [Memory.read]
  | cons c rest ih =>
    obtain ⟨d, w⟩ := c
    simp only [Memory.wfFrom, Bool.and_eq_true, decide_eq_true_eq] at h
    simp only [Memory.write]
    by_cases hlt : a < d
    · rw [if_pos hlt]
      have low : Memory.read ((d, w) :: rest) a = initialByte a := by
        rw [Memory.read, if_neg (by omega)]; exact read_below h.2 (by omega)
      split <;> rename_i hv
      · by_cases hb : b = a
        · subst hb; rw [if_pos rfl, low, hv]
        · rw [if_neg hb]
      · rw [Memory.read]
    · rw [if_neg hlt]
      by_cases heq : a = d
      · subst heq
        rw [if_pos rfl]
        split <;> rename_i hv
        · by_cases hb : b = a
          · subst hb; rw [if_pos rfl, hv]; exact read_below h.2 (by omega)
          · rw [if_neg hb, Memory.read, if_neg hb]
        · by_cases hb : b = a <;> simp [Memory.read, hb]
      · rw [if_neg heq, Memory.read, Memory.read, ih h.2]
        by_cases hb : b = d
        · subst hb; rw [if_pos rfl, if_pos rfl, if_neg (by omega)]
        · rw [if_neg hb, if_neg hb]

/-- R52, R53, R61: a read sees the last write to its address and no other. -/
theorem read_write {m : Memory} (h : m.wf = true) (a : Nat) (v : Byte) (b : Nat) :
    (m.write a v).read b = if b = a then v else m.read b := read_write_from h a v b

theorem wfFrom_write {m : Memory} {lo : Nat} (h : m.wfFrom lo = true) {a : Nat} (hlo : lo ≤ a) (ha : a < memSize) (v : Byte) :
    (m.write a v).wfFrom lo = true := by
  induction m generalizing lo with
  | nil =>
    simp only [Memory.write]
    split <;> rename_i hv
    · rfl
    · simp [Memory.wfFrom, hlo, ha, hv]
  | cons c rest ih =>
    obtain ⟨d, w⟩ := c
    have hall := h
    simp only [Memory.wfFrom, Bool.and_eq_true, decide_eq_true_eq] at h
    obtain ⟨⟨⟨hd, hs⟩, hne⟩, hrest⟩ := h
    simp only [Memory.write]
    by_cases hlt : a < d
    · rw [if_pos hlt]
      split <;> rename_i hv
      · exact hall
      · simp only [Memory.wfFrom, Bool.and_eq_true, decide_eq_true_eq]
        exact ⟨⟨⟨hlo, ha⟩, by simpa using hv⟩, ⟨⟨by omega, hs⟩, hne⟩, hrest⟩
    · rw [if_neg hlt]
      by_cases heq : a = d
      · subst heq
        rw [if_pos rfl]
        split <;> rename_i hv
        · exact wfFrom_mono hrest (by omega)
        · simp only [Memory.wfFrom, Bool.and_eq_true, decide_eq_true_eq]
          exact ⟨⟨⟨hd, ha⟩, by simpa using hv⟩, hrest⟩
      · rw [if_neg heq]
        simp only [Memory.wfFrom, Bool.and_eq_true, decide_eq_true_eq]
        exact ⟨⟨⟨hd, hs⟩, hne⟩, ih hrest (by omega)⟩

/-- A write inside the address space keeps the canonical form. -/
theorem wf_write {m : Memory} (h : m.wf = true) {a : Nat} (ha : a < memSize) (v : Byte) : (m.write a v).wf = true :=
  wfFrom_write h (Nat.zero_le a) ha v

/-- The reset memory is canonical. -/
theorem wf_reset : State.reset.mem.wf = true := rfl

/-- The stores of FX33 and FX55 keep the canonical form, inside the address space. -/
theorem wf_storeBytes {m : Memory} (h : m.wf = true) {eaOf : Nat → Nat} {f : Nat → Byte} {n : Nat}
    (hin : ∀ k, k < n → eaOf k < memSize) : (storeBytes eaOf f n m).wf = true := by
  induction n with
  | zero => exact h
  | succ n ih => exact wf_write (ih fun k hk => hin k (by omega)) (hin n (by omega)) (f n)

/-- All the stores of FX33 and FX55 do at distinct addresses inside the space: each holds its byte, every other byte stands. -/
theorem read_storeBytes {m : Memory} (h : m.wf = true) {eaOf : Nat → Nat} {f : Nat → Byte} {n : Nat}
    (hin : ∀ k, k < n → eaOf k < memSize) (hinj : ∀ j k, j < n → k < n → eaOf j = eaOf k → j = k) :
    (∀ k, k < n → (storeBytes eaOf f n m).read (eaOf k) = f k) ∧
    (∀ b, (∀ k, k < n → b ≠ eaOf k) → (storeBytes eaOf f n m).read b = m.read b) := by
  induction n with
  | zero => exact ⟨fun k hk => absurd hk (by omega), fun b _ => rfl⟩
  | succ n ih =>
    have hw := wf_storeBytes (f := f) h (fun k (hk : k < n) => hin k (by omega))
    obtain ⟨h1, h2⟩ := ih (fun k hk => hin k (by omega)) (fun j k hj hk => hinj j k (by omega) (by omega))
    constructor
    · intro k hk
      rw [storeBytes, read_write hw]
      by_cases hkn : k = n
      · subst hkn; rw [if_pos rfl]
      · rw [if_neg (fun e => hkn (hinj k n hk (by omega) e))]
        exact h1 k (by omega)
    · intro b hb
      rw [storeBytes, read_write hw, if_neg (hb n (by omega))]
      exact h2 b (fun k hk => hb k (by omega))

/-- The loader's copy keeps the canonical form when the image fits. -/
theorem wf_copyBytes (bs : List Byte) {a : Nat} {m : Memory} (h : m.wf = true) (hfit : a + bs.length ≤ memSize) :
    (copyBytes bs a m).wf = true := by
  induction bs generalizing a m with
  | nil => exact h
  | cons b bs ih =>
    simp only [List.length_cons] at hfit
    exact ih (wf_write h (by omega) b) (by omega)

/-- All the loader's copy does (R281): the image stands from `a` on, every other byte stands. -/
theorem read_copyBytes (bs : List Byte) {a : Nat} {m : Memory} (h : m.wf = true) (hfit : a + bs.length ≤ memSize) (b : Nat) :
    (copyBytes bs a m).read b = if a ≤ b ∧ b < a + bs.length then bs.getD (b - a) 0 else m.read b := by
  induction bs generalizing a m with
  | nil => rw [if_neg (by simp)]; rfl
  | cons v bs ih =>
    simp only [List.length_cons] at hfit ⊢
    rw [copyBytes, ih (wf_write h (by omega) v) (by omega), read_write h]
    by_cases hb : b = a
    · subst hb
      rw [if_neg (by omega), if_pos rfl, if_pos (by omega)]
      simp
    · by_cases hr : a + 1 ≤ b ∧ b < a + 1 + bs.length
      · rw [if_pos hr, if_pos (by omega)]
        have : b - a = (b - (a + 1)) + 1 := by omega
        rw [this, List.getD_cons_succ]
      · rw [if_neg hr, if_neg hb, if_neg (by omega)]

/-- The word placed for the next fetch keeps the canonical form. -/
theorem wf_placeWord {s : State} (h : s.mem.wf = true) (hpc : s.pc.toNat ≤ 0xFFE) (w : Word) : (placeWord w s).mem.wf = true :=
  wf_write (wf_write h (by simp only [memSize]; omega) _) (by simp only [memSize]; omega) _

/-- `load` leaves memory canonical, from any state. -/
theorem wf_loadRom {rom : List Byte} {s t : State} (h : loadRom rom s = .ok t) : t.mem.wf = true := by
  simp only [loadRom] at h
  split at h
  · cases h
  · rename_i hle
    cases h
    exact wf_copyBytes rom wf_reset (by simp only [maxRom, memSize, loadAddress] at hle ⊢; omega)

end Sys2Proof.Machine
end

