-- ==== Sys2Proof/Laws/PerInstr.lean ====
section
/-! SUPPORT. Per instruction: the fixed fields of its word are those its row of spec/opcode_table.json gives ("fixed"; R80). -/

namespace Sys2Proof.Laws

/-- The fixed fields of the word of `i`, as the opcode table has them. -/
def FixedFields.Statement (i : Instr) : Prop :=
  match i with
  | .cls => encode .cls = 0x00E0#16
  | .ret => encode .ret = 0x00EE#16
  | .sys nnn => opField (encode (.sys nnn)) = 0x0#4
  | .jp nnn => opField (encode (.jp nnn)) = 0x1#4
  | .call nnn => opField (encode (.call nnn)) = 0x2#4
  | .seImm x kk => opField (encode (.seImm x kk)) = 0x3#4
  | .sneImm x kk => opField (encode (.sneImm x kk)) = 0x4#4
  | .seReg x y => opField (encode (.seReg x y)) = 0x5#4 ∧ nField (encode (.seReg x y)) = 0x0#4
  | .ldImm x kk => opField (encode (.ldImm x kk)) = 0x6#4
  | .addImm x kk => opField (encode (.addImm x kk)) = 0x7#4
  | .ldReg x y => opField (encode (.ldReg x y)) = 0x8#4 ∧ nField (encode (.ldReg x y)) = 0x0#4
  | .or x y => opField (encode (.or x y)) = 0x8#4 ∧ nField (encode (.or x y)) = 0x1#4
  | .and x y => opField (encode (.and x y)) = 0x8#4 ∧ nField (encode (.and x y)) = 0x2#4
  | .xor x y => opField (encode (.xor x y)) = 0x8#4 ∧ nField (encode (.xor x y)) = 0x3#4
  | .addReg x y => opField (encode (.addReg x y)) = 0x8#4 ∧ nField (encode (.addReg x y)) = 0x4#4
  | .sub x y => opField (encode (.sub x y)) = 0x8#4 ∧ nField (encode (.sub x y)) = 0x5#4
  | .shr x y => opField (encode (.shr x y)) = 0x8#4 ∧ nField (encode (.shr x y)) = 0x6#4
  | .subn x y => opField (encode (.subn x y)) = 0x8#4 ∧ nField (encode (.subn x y)) = 0x7#4
  | .shl x y => opField (encode (.shl x y)) = 0x8#4 ∧ nField (encode (.shl x y)) = 0xE#4
  | .sneReg x y => opField (encode (.sneReg x y)) = 0x9#4 ∧ nField (encode (.sneReg x y)) = 0x0#4
  | .ldI nnn => opField (encode (.ldI nnn)) = 0xA#4
  | .jpOff nnn => opField (encode (.jpOff nnn)) = 0xB#4
  | .rnd x kk => opField (encode (.rnd x kk)) = 0xC#4
  | .drw x y n => opField (encode (.drw x y n)) = 0xD#4
  | .skp x => opField (encode (.skp x)) = 0xE#4 ∧ kkField (encode (.skp x)) = 0x9E#8
  | .sknp x => opField (encode (.sknp x)) = 0xE#4 ∧ kkField (encode (.sknp x)) = 0xA1#8
  | .ldFromDt x => opField (encode (.ldFromDt x)) = 0xF#4 ∧ kkField (encode (.ldFromDt x)) = 0x07#8
  | .ldK x => opField (encode (.ldK x)) = 0xF#4 ∧ kkField (encode (.ldK x)) = 0x0A#8
  | .ldDt x => opField (encode (.ldDt x)) = 0xF#4 ∧ kkField (encode (.ldDt x)) = 0x15#8
  | .ldSt x => opField (encode (.ldSt x)) = 0xF#4 ∧ kkField (encode (.ldSt x)) = 0x18#8
  | .addI x => opField (encode (.addI x)) = 0xF#4 ∧ kkField (encode (.addI x)) = 0x1E#8
  | .ldF x => opField (encode (.ldF x)) = 0xF#4 ∧ kkField (encode (.ldF x)) = 0x29#8
  | .ldB x => opField (encode (.ldB x)) = 0xF#4 ∧ kkField (encode (.ldB x)) = 0x33#8
  | .ldStore x => opField (encode (.ldStore x)) = 0xF#4 ∧ kkField (encode (.ldStore x)) = 0x55#8
  | .ldLoad x => opField (encode (.ldLoad x)) = 0xF#4 ∧ kkField (encode (.ldLoad x)) = 0x65#8

theorem FixedFields.cls : FixedFields.Statement .cls := rfl

theorem FixedFields.ret : FixedFields.Statement .ret := rfl

theorem FixedFields.sys (nnn : Addr12) : FixedFields.Statement (.sys nnn) := opField_encodeNnn _ nnn

theorem FixedFields.jp (nnn : Addr12) : FixedFields.Statement (.jp nnn) := opField_encodeNnn _ nnn

theorem FixedFields.call (nnn : Addr12) : FixedFields.Statement (.call nnn) := opField_encodeNnn _ nnn

theorem FixedFields.seImm (x : Nibble) (kk : Byte) : FixedFields.Statement (.seImm x kk) := opField_encodeXkk _ x kk

theorem FixedFields.sneImm (x : Nibble) (kk : Byte) : FixedFields.Statement (.sneImm x kk) := opField_encodeXkk _ x kk

theorem FixedFields.seReg (x y : Nibble) : FixedFields.Statement (.seReg x y) := ⟨opField_encodeXyn _ x y _, nField_encodeXyn _ x y _⟩

theorem FixedFields.ldImm (x : Nibble) (kk : Byte) : FixedFields.Statement (.ldImm x kk) := opField_encodeXkk _ x kk

theorem FixedFields.addImm (x : Nibble) (kk : Byte) : FixedFields.Statement (.addImm x kk) := opField_encodeXkk _ x kk

theorem FixedFields.ldReg (x y : Nibble) : FixedFields.Statement (.ldReg x y) := ⟨opField_encodeXyn _ x y _, nField_encodeXyn _ x y _⟩

theorem FixedFields.or (x y : Nibble) : FixedFields.Statement (.or x y) := ⟨opField_encodeXyn _ x y _, nField_encodeXyn _ x y _⟩

theorem FixedFields.and (x y : Nibble) : FixedFields.Statement (.and x y) := ⟨opField_encodeXyn _ x y _, nField_encodeXyn _ x y _⟩

theorem FixedFields.xor (x y : Nibble) : FixedFields.Statement (.xor x y) := ⟨opField_encodeXyn _ x y _, nField_encodeXyn _ x y _⟩

theorem FixedFields.addReg (x y : Nibble) : FixedFields.Statement (.addReg x y) := ⟨opField_encodeXyn _ x y _, nField_encodeXyn _ x y _⟩

theorem FixedFields.sub (x y : Nibble) : FixedFields.Statement (.sub x y) := ⟨opField_encodeXyn _ x y _, nField_encodeXyn _ x y _⟩

theorem FixedFields.shr (x y : Nibble) : FixedFields.Statement (.shr x y) := ⟨opField_encodeXyn _ x y _, nField_encodeXyn _ x y _⟩

theorem FixedFields.subn (x y : Nibble) : FixedFields.Statement (.subn x y) := ⟨opField_encodeXyn _ x y _, nField_encodeXyn _ x y _⟩

theorem FixedFields.shl (x y : Nibble) : FixedFields.Statement (.shl x y) := ⟨opField_encodeXyn _ x y _, nField_encodeXyn _ x y _⟩

theorem FixedFields.sneReg (x y : Nibble) : FixedFields.Statement (.sneReg x y) := ⟨opField_encodeXyn _ x y _, nField_encodeXyn _ x y _⟩

theorem FixedFields.ldI (nnn : Addr12) : FixedFields.Statement (.ldI nnn) := opField_encodeNnn _ nnn

theorem FixedFields.jpOff (nnn : Addr12) : FixedFields.Statement (.jpOff nnn) := opField_encodeNnn _ nnn

theorem FixedFields.rnd (x : Nibble) (kk : Byte) : FixedFields.Statement (.rnd x kk) := opField_encodeXkk _ x kk

theorem FixedFields.drw (x y n : Nibble) : FixedFields.Statement (.drw x y n) := opField_encodeXyn _ x y n

theorem FixedFields.skp (x : Nibble) : FixedFields.Statement (.skp x) := ⟨opField_encodeXkk _ x _, kkField_encodeXkk _ x _⟩

theorem FixedFields.sknp (x : Nibble) : FixedFields.Statement (.sknp x) := ⟨opField_encodeXkk _ x _, kkField_encodeXkk _ x _⟩

theorem FixedFields.ldFromDt (x : Nibble) : FixedFields.Statement (.ldFromDt x) := ⟨opField_encodeXkk _ x _, kkField_encodeXkk _ x _⟩

theorem FixedFields.ldK (x : Nibble) : FixedFields.Statement (.ldK x) := ⟨opField_encodeXkk _ x _, kkField_encodeXkk _ x _⟩

theorem FixedFields.ldDt (x : Nibble) : FixedFields.Statement (.ldDt x) := ⟨opField_encodeXkk _ x _, kkField_encodeXkk _ x _⟩

theorem FixedFields.ldSt (x : Nibble) : FixedFields.Statement (.ldSt x) := ⟨opField_encodeXkk _ x _, kkField_encodeXkk _ x _⟩

theorem FixedFields.addI (x : Nibble) : FixedFields.Statement (.addI x) := ⟨opField_encodeXkk _ x _, kkField_encodeXkk _ x _⟩

theorem FixedFields.ldF (x : Nibble) : FixedFields.Statement (.ldF x) := ⟨opField_encodeXkk _ x _, kkField_encodeXkk _ x _⟩

theorem FixedFields.ldB (x : Nibble) : FixedFields.Statement (.ldB x) := ⟨opField_encodeXkk _ x _, kkField_encodeXkk _ x _⟩

theorem FixedFields.ldStore (x : Nibble) : FixedFields.Statement (.ldStore x) := ⟨opField_encodeXkk _ x _, kkField_encodeXkk _ x _⟩

theorem FixedFields.ldLoad (x : Nibble) : FixedFields.Statement (.ldLoad x) := ⟨opField_encodeXkk _ x _, kkField_encodeXkk _ x _⟩

end Sys2Proof.Laws
end

