-- ==== Sys2Proof/Laws/Step.lean ====
section
/-! SUPPORT. The one inversion lemma of the step: all a `step()` can do, by driver state (R101). -/

namespace Sys2Proof.Machine

/-- The five ways of a step: Halted stays, the key wait, a failed fetch, an unknown word, an executed instruction. -/
theorem step_cases (s : State) :
    (∃ e, s.drv = .halted e ∧ step s = .next s) ∨
    (∃ x, s.drv = .waitingForKey x ∧ step s = .next (keyWaitStep x s)) ∨
    (s.drv = .ready ∧ ∃ a, fetchWord s = .error a ∧ step s = .next (fetchFailed a s)) ∨
    (s.drv = .ready ∧ ∃ w, fetchWord s = .ok w ∧ decode w = .error (.unknown w) ∧
      step s = .next (executeUnknown (.unknown w) s)) ∨
    (s.drv = .ready ∧ ∃ w i, fetchWord s = .ok w ∧ decode w = .ok i ∧ step s = exec i s) := by
  cases hd : s.drv with
  | halted e => exact .inl ⟨e, rfl, by simp [step, hd]⟩
  | waitingForKey x => exact .inr (.inl ⟨x, rfl, by simp [step, hd]⟩)
  | ready =>
    cases hf : fetchWord s with
    | error a => exact .inr (.inr (.inl ⟨rfl, a, rfl, by simp [step, hd, hf]⟩))
    | ok w =>
      cases hw : decode w with
      | error e =>
        have := decode_error hw
        subst this
        exact .inr (.inr (.inr (.inl ⟨rfl, w, rfl, hw, by simp [step, hd, hf, hw]⟩)))
      | ok i => exact .inr (.inr (.inr (.inr ⟨rfl, w, i, rfl, hw, by simp [step, hd, hf, hw]⟩)))

/-- A fetch succeeds exactly at pc ≤ 0xFFE, and gives the two bytes there, high byte first (R102, R54). -/
theorem fetchWord_ok {s : State} {w : Word} :
    fetchWord s = .ok w ↔ s.pc.toNat ≤ 0xFFE ∧ w = wordOfBytes (s.mem.read s.pc.toNat) (s.mem.read (s.pc.toNat + 1)) := by
  unfold fetchWord
  split
  · simp; omega
  · simp only [Except.ok.injEq]
    constructor
    · rintro rfl; exact ⟨by omega, rfl⟩
    · rintro ⟨-, rfl⟩; rfl

/-- A fetch fails exactly at pc > 0xFFE, naming the first byte outside memory (R102). -/
theorem fetchWord_error {s : State} {a : Nat} :
    fetchWord s = .error a ↔ 0xFFE < s.pc.toNat ∧ a = if 0xFFF < s.pc.toNat then s.pc.toNat else s.pc.toNat + 1 := by
  unfold fetchWord
  split
  · rename_i h
    simp only [Except.error.injEq]
    exact ⟨fun e => ⟨h, e.symm⟩, fun e => e.2.symm⟩
  · rename_i h
    simp [h]

/-- The word placed for the next fetch is the word the next step fetches (R54, R102; log entry 6). -/
theorem fetchWord_placeWord {s : State} (h : s.mem.wf = true) (hpc : s.pc.toNat ≤ 0xFFE) (w : Word) :
    fetchWord (placeWord w s) = .ok w := by
  refine fetchWord_ok.2 ⟨hpc, ?_⟩
  have h1 := wf_write h (a := s.pc.toNat) (by simp only [memSize]; omega) (highByte w)
  show w = wordOfBytes (((s.mem.write s.pc.toNat (highByte w)).write (s.pc.toNat + 1) (lowByte w)).read s.pc.toNat)
    (((s.mem.write s.pc.toNat (highByte w)).write (s.pc.toNat + 1) (lowByte w)).read (s.pc.toNat + 1))
  rw [read_write h1, read_write h1, if_neg (by omega), if_pos rfl, read_write h, if_pos rfl, wordOfBytes_bytes]

/-- The step from `withFetchWord` runs exactly the placed instruction. -/
theorem step_withFetchWord {s : State} (h : s.mem.wf = true) (hpc : s.pc.toNat ≤ 0xFFE) {nbits w : Nat} {i : Instr}
    (hd : decode (tableWord nbits w) = .ok i) : step (s.withFetchWord nbits w) = exec i (s.withFetchWord nbits w) := by
  have hf := fetchWord_placeWord h hpc (tableWord nbits w)
  unfold step
  rw [show (s.withFetchWord nbits w).drv = .ready from rfl]
  simp only [State.withFetchWord, hf, hd]

end Sys2Proof.Machine
end

