-- ==== Sys2Proof/Laws/Transactions.lean ====
section
/-! SUPPORT. What a load can do, and how a run goes one transaction at a time. -/

namespace Sys2Proof.Machine

/-- The two ways of `load` (R112): accepted, with everything reset and the image in memory, or refused with nothing changed. -/
theorem transact_load (rom : List Byte) (s : State) :
    (rom.length ≤ maxRom ∧ loadRom rom s = .ok { State.reset with mem := copyBytes rom loadAddress State.reset.mem,
                                                                   draws := s.draws, session := s.session + 1 } ∧
      transact (.load rom) s = .next ({ State.reset with mem := copyBytes rom loadAddress State.reset.mem, draws := s.draws,
                                                          session := s.session + 1 }, .ok)) ∨
    (maxRom < rom.length ∧ loadRom rom s = .error .romTooLarge ∧ transact (.load rom) s = .next (s, .romTooLarge)) := by
  by_cases h : maxRom < rom.length
  · exact .inr ⟨h, by simp only [loadRom, if_pos h], by simp only [transact, loadRom, if_pos h]⟩
  · exact .inl ⟨Nat.le_of_not_lt h, by simp only [loadRom, if_neg h], by simp only [transact, loadRom, if_neg h]⟩

/-- The empty schedule. -/
@[simp] theorem runSchedule_nil (s : State) : runSchedule [] s = .next (s, []) := rfl

/-- A run that completes is its first transaction, then the run of the rest. -/
theorem runSchedule_cons_next {tr : Transaction} {rest : List Transaction} {s t : State} {rs : List Reply} :
    runSchedule (tr :: rest) s = .next (t, rs) ↔
      ∃ s' r qs, transact tr s = .next (s', r) ∧ runSchedule rest s' = .next (t, qs) ∧ rs = r :: qs := by
  simp only [runSchedule]
  constructor
  · intro h
    split at h
    · rename_i s' r ht
      split at h
      · rename_i t' qs hr
        cases h
        exact ⟨s', r, qs, ht, hr, rfl⟩
      · cases h
      · cases h
    · cases h
    · cases h
  · rintro ⟨s', r, qs, ht, hr, rfl⟩
    simp only [ht, hr]

end Sys2Proof.Machine
end

