-- ==== Sys2Proof/Machine/Assembly.lean ====
section
/-! DEFINITION. The assembler syntax of R84, an aid to reading on which no rule and no meaning depends. -/

namespace Sys2Proof.Machine

/-- The names of the general registers, in order. -/
def registerNames : List String :=
  ["V0", "V1", "V2", "V3", "V4", "V5", "V6", "V7"] ++ ["V8", "V9", "VA", "VB", "VC", "VD", "VE", "VF"]

/-- The hexadecimal digits, in order. -/
def hexDigits : List String :=
  ["0", "1", "2", "3", "4", "5", "6", "7"] ++ ["8", "9", "A", "B", "C", "D", "E", "F"]

/-- `V0` to `VF`. -/
def registerText (x : Nibble) : String := registerNames.getD x.toNat ""

/-- One hexadecimal digit. -/
def digitText (n : Nat) : String := hexDigits.getD (n % 16) ""

/-- An 8-bit number. -/
def byteText (b : Byte) : String := "0x" ++ digitText (b.toNat / 16) ++ digitText b.toNat

/-- A 12-bit number. -/
def addrText (a : Addr12) : String := "0x" ++ digitText (a.toNat / 256) ++ digitText (a.toNat / 16) ++ digitText a.toNat

/-- Two operands with a comma between. -/
def operandsText (a b : String) : String := a ++ ", " ++ b

/-- The line R84 writes for an instruction; `usesVx` is `jump_with_offset_uses_vx`, which decides how BNNN is read. The optional
second operand of SHR and SHL is written out. -/
def assembly (usesVx : Bool) (i : Instr) : String :=
  match i with
  | .cls => "CLS"
  | .ret => "RET"
  | .sys nnn => "SYS " ++ addrText nnn
  | .jp nnn => "JP " ++ addrText nnn
  | .call nnn => "CALL " ++ addrText nnn
  | .seImm x kk => "SE " ++ operandsText (registerText x) (byteText kk)
  | .sneImm x kk => "SNE " ++ operandsText (registerText x) (byteText kk)
  | .seReg x y => "SE " ++ operandsText (registerText x) (registerText y)
  | .ldImm x kk => "LD " ++ operandsText (registerText x) (byteText kk)
  | .addImm x kk => "ADD " ++ operandsText (registerText x) (byteText kk)
  | .ldReg x y => "LD " ++ operandsText (registerText x) (registerText y)
  | .or x y => "OR " ++ operandsText (registerText x) (registerText y)
  | .and x y => "AND " ++ operandsText (registerText x) (registerText y)
  | .xor x y => "XOR " ++ operandsText (registerText x) (registerText y)
  | .addReg x y => "ADD " ++ operandsText (registerText x) (registerText y)
  | .sub x y => "SUB " ++ operandsText (registerText x) (registerText y)
  | .shr x y => "SHR " ++ operandsText (registerText x) (registerText y)
  | .subn x y => "SUBN " ++ operandsText (registerText x) (registerText y)
  | .shl x y => "SHL " ++ operandsText (registerText x) (registerText y)
  | .sneReg x y => "SNE " ++ operandsText (registerText x) (registerText y)
  | .ldI nnn => "LD " ++ operandsText "I" (addrText nnn)
  | .jpOff nnn => "JP " ++ operandsText (if usesVx then registerText (nnn.extractLsb' 8 4) else "V0") (addrText nnn)
  | .rnd x kk => "RND " ++ operandsText (registerText x) (byteText kk)
  | .drw x y n => "DRW " ++ operandsText (operandsText (registerText x) (registerText y)) (toString n.toNat)
  | .skp x => "SKP " ++ registerText x
  | .sknp x => "SKNP " ++ registerText x
  | .ldFromDt x => "LD " ++ operandsText (registerText x) "DT"
  | .ldK x => "LD " ++ operandsText (registerText x) "K"
  | .ldDt x => "LD " ++ operandsText "DT" (registerText x)
  | .ldSt x => "LD " ++ operandsText "ST" (registerText x)
  | .addI x => "ADD " ++ operandsText "I" (registerText x)
  | .ldF x => "LD " ++ operandsText "F" (registerText x)
  | .ldB x => "LD " ++ operandsText "B" (registerText x)
  | .ldStore x => "LD " ++ operandsText "[I]" (registerText x)
  | .ldLoad x => "LD " ++ operandsText (registerText x) "[I]"

end Sys2Proof.Machine
end

