-- ==== Sys2Proof/Tests/Slice0.lean ====
section
/-! SUPPORT. The model's own tests: well-formedness, a word for every constructor written out from the encodings of
30_encoding.md, single steps from 95_test_vectors.md (the vector is named at each test), and a witness for every obligation
with hypotheses. A meaning that reads a quirk is tested through its operation, with the quirk's value as the argument. -/

namespace Sys2Proof.Tests

open Sys2Proof.Machine

/-- The answer is a next state that passes `p`. -/
def answers (a : Answer) (p : State → Bool) : Bool :=
  match a with
  | .next t => p t
  | .fault _ => false
  | .refused _ => false

/-- The state right after `load` (the vectors' default) with some registers set. -/
def withV (l : List (Nibble × Byte)) : State := l.foldl (fun s p => setV s p.1 p.2) State.reset

/-- The state right after `load` with pc at `a`. -/
def atPc (a : Word) : State := jumpTo a State.reset

/-- The state right after `load` with I at `a`. -/
def atIndex (a : Word) : State := setI a State.reset

/-- A state waiting for the key of V3, as FX0A left it. -/
def waiting : State := setDriver (.waitingForKey 0x3#4) none State.reset

/-- A state halted on an illegal word. -/
def haltedState : State := haltWith .unknownOpcode (some 0x8108#16) none State.reset

/-- The error record of a state, when it is this one. -/
def recordIs (kind : ErrorKind) (pc : Word) (opcode : Option Word) (addr : Option Nat) (s : State) : Bool :=
  s.errorRecord == some { kind := kind, pc := pc, opcode := opcode, addr := addr }

/-! ## Well-formedness -/

/-- R75, R161: 00E0 is CLS, so SYS 0x0E0 is the instruction of no word. -/
theorem test_wellFormed_refuses_sys_0E0 : wellFormed (.sys 0x0E0#12) = false := by decide

/-- R75, R161: 00EE is RET, so SYS 0x0EE is the instruction of no word. -/
theorem test_wellFormed_refuses_sys_0EE : wellFormed (.sys 0x0EE#12) = false := by decide

theorem test_wellFormed_accepts_sys : wellFormed (.sys 0x0E1#12) = true := by decide

/-! ## Decoding, a word for every constructor -/

theorem test_decode_cls : decode 0x00E0#16 = .ok .cls := rfl
theorem test_decode_ret : decode 0x00EE#16 = .ok .ret := rfl
theorem test_decode_sys : decode 0x0123#16 = .ok (.sys 0x123#12) := rfl
theorem test_decode_jp : decode 0x1234#16 = .ok (.jp 0x234#12) := rfl
theorem test_decode_call : decode 0x2300#16 = .ok (.call 0x300#12) := rfl
theorem test_decode_seImm : decode 0x3507#16 = .ok (.seImm 0x5#4 0x07#8) := rfl
theorem test_decode_sneImm : decode 0x4507#16 = .ok (.sneImm 0x5#4 0x07#8) := rfl
theorem test_decode_seReg : decode 0x5120#16 = .ok (.seReg 0x1#4 0x2#4) := rfl
theorem test_decode_ldImm : decode 0x6A42#16 = .ok (.ldImm 0xA#4 0x42#8) := rfl
theorem test_decode_addImm : decode 0x7301#16 = .ok (.addImm 0x3#4 0x01#8) := rfl
theorem test_decode_ldReg : decode 0x8120#16 = .ok (.ldReg 0x1#4 0x2#4) := rfl
theorem test_decode_or : decode 0x8121#16 = .ok (.or 0x1#4 0x2#4) := rfl
theorem test_decode_and : decode 0x8122#16 = .ok (.and 0x1#4 0x2#4) := rfl
theorem test_decode_xor : decode 0x8123#16 = .ok (.xor 0x1#4 0x2#4) := rfl
theorem test_decode_addReg : decode 0x8124#16 = .ok (.addReg 0x1#4 0x2#4) := rfl
theorem test_decode_sub : decode 0x8125#16 = .ok (.sub 0x1#4 0x2#4) := rfl
theorem test_decode_shr : decode 0x8126#16 = .ok (.shr 0x1#4 0x2#4) := rfl
theorem test_decode_subn : decode 0x8127#16 = .ok (.subn 0x1#4 0x2#4) := rfl
theorem test_decode_shl : decode 0x812E#16 = .ok (.shl 0x1#4 0x2#4) := rfl
theorem test_decode_sneReg : decode 0x9120#16 = .ok (.sneReg 0x1#4 0x2#4) := rfl
theorem test_decode_ldI : decode 0xA300#16 = .ok (.ldI 0x300#12) := rfl
theorem test_decode_jpOff : decode 0xB200#16 = .ok (.jpOff 0x200#12) := rfl
theorem test_decode_rnd : decode 0xC30F#16 = .ok (.rnd 0x3#4 0x0F#8) := rfl
theorem test_decode_drw : decode 0xD125#16 = .ok (.drw 0x1#4 0x2#4 0x5#4) := rfl
theorem test_decode_skp : decode 0xE29E#16 = .ok (.skp 0x2#4) := rfl
theorem test_decode_sknp : decode 0xE2A1#16 = .ok (.sknp 0x2#4) := rfl
theorem test_decode_ldFromDt : decode 0xF507#16 = .ok (.ldFromDt 0x5#4) := rfl
theorem test_decode_ldK : decode 0xF30A#16 = .ok (.ldK 0x3#4) := rfl
theorem test_decode_ldDt : decode 0xF015#16 = .ok (.ldDt 0x0#4) := rfl
theorem test_decode_ldSt : decode 0xF418#16 = .ok (.ldSt 0x4#4) := rfl
theorem test_decode_addI : decode 0xF11E#16 = .ok (.addI 0x1#4) := rfl
theorem test_decode_ldF : decode 0xF029#16 = .ok (.ldF 0x0#4) := rfl
theorem test_decode_ldB : decode 0xF033#16 = .ok (.ldB 0x0#4) := rfl
theorem test_decode_ldStore : decode 0xF155#16 = .ok (.ldStore 0x1#4) := rfl
theorem test_decode_ldLoad : decode 0xF265#16 = .ok (.ldLoad 0x2#4) := rfl

/-- AL-33, R79: the nibble 8 of family 8 is illegal. -/
theorem test_decode_8108_is_unknown : decode 0x8108#16 = .error (.unknown 0x8108#16) := rfl

/-- CF-16, R78: 5XYN with a nibble other than 0 is illegal. -/
theorem test_decode_5121_is_unknown : decode 0x5121#16 = .error (.unknown 0x5121#16) := rfl

theorem test_decode_E29F_is_unknown : decode 0xE29F#16 = .error (.unknown 0xE29F#16) := rfl
theorem test_decode_FFFF_is_unknown : decode 0xFFFF#16 = .error (.unknown 0xFFFF#16) := rfl

/-- The table's own numbering: a 16-bit row is the word itself. -/
theorem test_decodeTableWord : decodeTableWord 16 0xD125 = some (.drw 0x1#4 0x2#4 0x5#4) := by decide

/-- Lines of the programs P1, P2 and P3 of 95_test_vectors.md, and both readings of BNNN (R84). -/
theorem test_assembly : assembly false (.ldImm 0x1#4 0x05#8) = "LD V1, 0x05" ∧ assembly false (.jp 0x20C#12) = "JP 0x20C" ∧
    assembly false (.drw 0x1#4 0x2#4 0x5#4) = "DRW V1, V2, 5" ∧ assembly false (.ldLoad 0x2#4) = "LD V2, [I]" ∧
    assembly false (.jpOff 0x3FF#12) = "JP V0, 0x3FF" ∧ assembly true (.jpOff 0x3FF#12) = "JP V3, 0x3FF" := by decide

/-! ## Loads, arithmetic, logic, shifts (95_test_vectors.md 2.1) -/

/-- AL-1. -/
theorem test_ldImm : answers (exec (.ldImm 0xA#4 0x42#8) State.reset) (fun t => getV t 0xA#4 == 0x42#8 && t.pc == 0x202#16) := by
  decide

/-- AL-2: no flag. -/
theorem test_addImm_wraps : answers (exec (.addImm 0x3#4 0x01#8) (withV [(0x3#4, 0xFF#8), (0xF#4, 0x55#8)]))
    (fun t => getV t 0x3#4 == 0x00#8 && getV t 0xF#4 == 0x55#8) := by decide

/-- AL-4: under ADD_IMMEDIATE_SETS_VF the flag is written last. -/
theorem test_addImm_flag_parameter : getV (addImmediate true 0xF#4 0x01#8 (withV [(0xF#4, 0xFF#8)])) 0xF#4 = 0x01#8 := by decide

/-- AL-5. -/
theorem test_ldReg : answers (exec (.ldReg 0x1#4 0x2#4) (withV [(0x2#4, 0x17#8)])) (fun t => getV t 0x1#4 == 0x17#8) := by decide

/-- AL-6: VF is kept. -/
theorem test_or : answers (exec (.or 0x1#4 0x2#4) (withV [(0x1#4, 0x0F#8), (0x2#4, 0xF0#8), (0xF#4, 0x33#8)]))
    (fun t => getV t 0x1#4 == 0xFF#8 && getV t 0xF#4 == 0x33#8) := by decide

/-- AL-7. -/
theorem test_and : answers (exec (.and 0x1#4 0x2#4) (withV [(0x1#4, 0x3C#8), (0x2#4, 0x0F#8)])) (fun t => getV t 0x1#4 == 0x0C#8) := by
  decide

/-- AL-8. -/
theorem test_xor : answers (exec (.xor 0x1#4 0x2#4) (withV [(0x1#4, 0xFF#8), (0x2#4, 0x0F#8)])) (fun t => getV t 0x1#4 == 0xF0#8) := by
  decide

/-- AL-10. -/
theorem test_addReg_carry : answers (exec (.addReg 0x1#4 0x2#4) (withV [(0x1#4, 0xFF#8), (0x2#4, 0x01#8)]))
    (fun t => getV t 0x1#4 == 0x00#8 && getV t 0xF#4 == 0x01#8) := by decide

/-- AL-15: the flag overwrites the sum. -/
theorem test_addReg_into_vf : answers (exec (.addReg 0xF#4 0x1#4) (withV [(0xF#4, 0x01#8), (0x1#4, 0x01#8)]))
    (fun t => getV t 0xF#4 == 0x00#8) := by decide

/-- AL-17: equal operands borrow nothing. -/
theorem test_sub_equal : answers (exec (.sub 0x1#4 0x2#4) (withV [(0x1#4, 0x05#8), (0x2#4, 0x05#8)]))
    (fun t => getV t 0x1#4 == 0x00#8 && getV t 0xF#4 == 0x01#8) := by decide

/-- AL-18. -/
theorem test_sub_borrow : answers (exec (.sub 0x1#4 0x2#4) (withV [(0x1#4, 0x04#8), (0x2#4, 0x05#8)]))
    (fun t => getV t 0x1#4 == 0xFF#8 && getV t 0xF#4 == 0x00#8) := by decide

/-- AL-22. -/
theorem test_subn_borrow : answers (exec (.subn 0x1#4 0x2#4) (withV [(0x1#4, 0x05#8), (0x2#4, 0x03#8)]))
    (fun t => getV t 0x1#4 == 0xFE#8 && getV t 0xF#4 == 0x00#8) := by decide

/-- AL-23. -/
theorem test_subn_no_borrow : answers (exec (.subn 0x1#4 0x2#4) (withV [(0x1#4, 0x03#8), (0x2#4, 0x05#8)]))
    (fun t => getV t 0x1#4 == 0x02#8 && getV t 0xF#4 == 0x01#8) := by decide

/-- AL-27: the quirk off shifts a copy of Vy. -/
theorem test_shr_copy : let s := withV [(0x2#4, 0x05#8)]
    let t := shiftRight (shiftSource false s 0x1#4 0x2#4) 0x1#4 s
    getV t 0x1#4 = 0x02#8 ∧ getV t 0xF#4 = 0x01#8 ∧ getV t 0x2#4 = 0x05#8 := by decide

/-- AL-26: the quirk on shifts Vx in place. -/
theorem test_shr_in_place : let s := withV [(0x1#4, 0x04#8), (0x2#4, 0xFF#8)]
    let t := shiftRight (shiftSource true s 0x1#4 0x2#4) 0x1#4 s
    getV t 0x1#4 = 0x02#8 ∧ getV t 0xF#4 = 0x00#8 ∧ getV t 0x2#4 = 0xFF#8 := by decide

/-- AL-29. -/
theorem test_shl_in_place : let s := withV [(0x1#4, 0x81#8)]
    let t := shiftLeft (shiftSource true s 0x1#4 0x0#4) 0x1#4 s
    getV t 0x1#4 = 0x02#8 ∧ getV t 0xF#4 = 0x01#8 := by decide

/-- AL-30. -/
theorem test_shl_copy : let s := withV [(0x2#4, 0x40#8)]
    let t := shiftLeft (shiftSource false s 0x1#4 0x2#4) 0x1#4 s
    getV t 0x1#4 = 0x80#8 ∧ getV t 0xF#4 = 0x00#8 := by decide

/-! ## Control flow (2.2) -/

/-- CF-1. -/
theorem test_jp : answers (exec (.jp 0x234#12) State.reset) (fun t => t.pc == 0x234#16) := by decide

/-- CF-2: the fetch after a jump to 0xFFF fails at 0x1000. -/
theorem test_jp_to_last_byte : answers (step (atPc 0xFFF#16)) (recordIs .outOfBounds 0xFFF#16 none (some 0x1000)) := by decide

/-- CF-4. -/
theorem test_call : answers (exec (.call 0x300#12) State.reset) (fun t => t.stack == [0x202#16] && t.pc == 0x300#16) := by decide

/-- CF-8. -/
theorem test_call_overflow : answers (exec (.call 0x400#12) (setStack (List.replicate 16 0x202#16) State.reset))
    (fun t => recordIs .stackOverflow 0x200#16 (some 0x2400#16) none t && t.stack.length == 16 && t.pc == 0x200#16) := by decide

/-- CF-5. -/
theorem test_ret : answers (exec .ret (setStack [0x202#16] (atPc 0x300#16))) (fun t => t.stack == [] && t.pc == 0x202#16) := by decide

/-- CF-6. -/
theorem test_ret_underflow : answers (exec .ret State.reset)
    (fun t => recordIs .stackUnderflow 0x200#16 (some 0x00EE#16) none t && t.pc == 0x200#16) := by decide

/-- CF-9, both values of the quirk. -/
theorem test_jpOff : let s := withV [(0x0#4, 0x10#8), (0x2#4, 0x20#8)]
    (jumpOffset false 0x200#12 s).pc = 0x210#16 ∧ (jumpOffset true 0x200#12 s).pc = 0x220#16 := by decide

/-- CF-10: the sum is not masked to 12 bits. -/
theorem test_jpOff_not_masked : (jumpOffset false 0xFFF#12 (withV [(0x0#4, 0xFF#8)])).pc = 0x10FE#16 := by decide

/-- CF-11, CF-12. -/
theorem test_seImm : answers (exec (.seImm 0x5#4 0x07#8) (withV [(0x5#4, 0x07#8)])) (fun t => t.pc == 0x204#16) = true ∧
    answers (exec (.seImm 0x5#4 0x07#8) (withV [(0x5#4, 0x08#8)])) (fun t => t.pc == 0x202#16) = true := by decide

/-- CF-13. -/
theorem test_sneImm : answers (exec (.sneImm 0x5#4 0x07#8) (withV [(0x5#4, 0x08#8)])) (fun t => t.pc == 0x204#16) := by decide

/-- CF-14. -/
theorem test_seReg : answers (exec (.seReg 0x1#4 0x2#4) (withV [(0x1#4, 0x33#8), (0x2#4, 0x33#8)])) (fun t => t.pc == 0x204#16) := by
  decide

/-- CF-15. -/
theorem test_sneReg : answers (exec (.sneReg 0x1#4 0x2#4) (withV [(0x1#4, 0x01#8), (0x2#4, 0x02#8)])) (fun t => t.pc == 0x204#16) = true ∧
    answers (exec (.sneReg 0x1#4 0x1#4) (withV [(0x1#4, 0x01#8)])) (fun t => t.pc == 0x202#16) = true := by decide

/-- CF-17: the fetch after a skip past the end fails at its own pc. -/
theorem test_skip_past_the_end : answers (exec (.seImm 0x0#4 0x00#8) (atPc 0xFFE#16)) (fun t => t.pc == 0x1002#16) = true ∧
    answers (step (atPc 0x1002#16)) (recordIs .outOfBounds 0x1002#16 none (some 0x1002)) = true := by decide

/-- CF-18. -/
theorem test_sys : answers (exec (.sys 0x123#12) State.reset)
    (fun t => recordIs .unknownOpcode 0x200#16 (some 0x0123#16) none t && t.pc == 0x200#16) := by decide

/-! ## Index and memory (2.3) -/

/-- MI-1. -/
theorem test_ldI : answers (exec (.ldI 0x300#12) State.reset) (fun t => t.i == 0x300#16) := by decide

/-- MI-2: no 12-bit mask and no flag. -/
theorem test_addI : answers (exec (.addI 0x1#4) (setI 0x0FFF#16 (withV [(0x1#4, 0x02#8), (0xF#4, 0x09#8)])))
    (fun t => t.i == 0x1001#16 && getV t 0xF#4 == 0x09#8) := by decide

/-- MI-3. -/
theorem test_addI_wraps : answers (exec (.addI 0x1#4) (setI 0xFFFF#16 (withV [(0x1#4, 0x02#8)]))) (fun t => t.i == 0x0001#16) := by
  decide

/-- MI-5: the low nibble. -/
theorem test_ldF : answers (exec (.ldF 0x0#4) (withV [(0x0#4, 0x1A#8)])) (fun t => t.i == 0x082#16) := by decide

/-- MI-7. -/
theorem test_ldB : answers (exec (.ldB 0x0#4) (setI 0x300#16 (withV [(0x0#4, 0xFF#8)])))
    (fun t => t.mem.read 0x300 == 0x02#8 && t.mem.read 0x301 == 0x05#8 && t.mem.read 0x302 == 0x05#8 && t.i == 0x300#16) := by decide

/-- MI-11 and MI-12: nothing is written when one address is outside memory or below 0x200. -/
theorem test_ldB_fails : answers (exec (.ldB 0x0#4) (setMem [(0xFFE, 0xAA#8)] (atIndex 0xFFE#16)))
      (fun t => recordIs .outOfBounds 0x200#16 (some 0xF033#16) (some 0x1000) t && t.mem.read 0xFFE == 0xAA#8) = true ∧
    answers (exec (.ldB 0x0#4) (atIndex 0x1FF#16)) (recordIs .outOfBounds 0x200#16 (some 0xF033#16) (some 0x1FF)) = true := by
  decide

/-- MI-14, MI-15. -/
theorem test_ldStore : let s := setI 0x300#16 (withV [(0x0#4, 0x01#8), (0x1#4, 0x02#8)])
    let t := storeAtIndex true (.ldStore 0x1#4) (effectiveAddress false s.i) (fun k => getV s (BitVec.ofNat 4 k))
      (registerCount 0x1#4) (indexAfter true s.i (registerCount 0x1#4)) s
    t.mem.read 0x300 = 0x01#8 ∧ t.mem.read 0x301 = 0x02#8 ∧ t.i = 0x302#16 ∧
      indexAfter false s.i (registerCount 0x1#4) = 0x300#16 := by decide

/-- MI-20: INDEX_ADDRESS_WRAP wraps before the low-memory check. -/
theorem test_ldStore_wrapped_address : let s := atIndex 0xFFF#16
    recordIs .outOfBounds 0x200#16 (some 0xF155#16) (some 0x000)
      (storeAtIndex true (.ldStore 0x1#4) (effectiveAddress true s.i) (fun _ => 0x01#8) (registerCount 0x1#4) s.i s) = true := by decide

/-- MI-16: the font may be read. -/
theorem test_ldLoad : let s := atIndex 0x050#16
    let t := loadAtIndex (.ldLoad 0x0#4) (effectiveAddress false s.i) (registerCount 0x0#4)
      (indexAfter true s.i (registerCount 0x0#4)) s
    getV t 0x0#4 = 0xF0#8 ∧ t.i = 0x051#16 := by decide

/-- MI-18: nothing is loaded when one address is outside memory. -/
theorem test_ldLoad_out_of_bounds : let s := setI 0xFF1#16 (withV [(0xF#4, 0x07#8)])
    answers (exec (.ldLoad 0xF#4) s) (fun t =>
      recordIs .outOfBounds 0x200#16 (some 0xFF65#16) (some 0x1000) t && getV t 0xF#4 == 0x07#8 && t.i == 0xFF1#16) = true := by decide

/-! ## Display (2.4) -/

/-- Every pixel of the list has the value `b`. -/
def pixelsAre (b : Bool) (fb : Frame) (l : List (Fin 64 × Fin 32)) : Bool := l.all fun p => pixel fb p.1 p.2 == b

/-- DS-1. -/
theorem test_cls : answers (exec .cls (setFb (togglePixel blankFrame 5 7) (withV [(0xF#4, 0x07#8)])))
    (fun t => pixelsAre false t.fb [(5, 7)] && getV t 0xF#4 == 0x07#8) := by decide

/-- DS-4 and DS-5: glyph 0 across the corner, wrapping, and the same clipped. -/
theorem test_drw_edges : let s := setI 0x050#16 (withV [(0x0#4, 0x3E#8), (0x1#4, 0x1E#8)])
    let t := draw true (effectiveAddress false s.i) 0x0#4 0x1#4 0x5#4 s
    let u := draw false (effectiveAddress false s.i) 0x0#4 0x1#4 0x5#4 s
    pixelsAre true t.fb [(62, 30), (63, 30), (0, 30), (1, 30), (62, 31), (1, 31), (62, 0), (1, 0), (62, 1), (1, 1), (62, 2), (63, 2),
      (0, 2), (1, 2)] = true ∧
    pixelsAre false t.fb [(63, 31), (0, 31), (2, 30), (61, 30), (62, 3)] = true ∧ getV t 0xF#4 = 0#8 ∧
    pixelsAre true u.fb [(62, 30), (63, 30), (62, 31)] = true ∧
    pixelsAre false u.fb [(0, 30), (1, 30), (1, 31), (62, 0), (62, 1), (62, 2)] = true ∧ getV u 0xF#4 = 0#8 := by decide

/-- DS-9 (coordinates read before VF is written), DS-10 (one pixel unset and one set), DS-8 (a sprite byte outside memory). -/
theorem test_drw_flag : let s := setI 0x055#16 (withV [(0xF#4, 0x05#8)])
    let t := draw true (effectiveAddress false s.i) 0x1#4 0xF#4 0x1#4 s
    let s' := setFb (togglePixel blankFrame 0 0) (setMem [(0x300, 0xC0#8)] (atIndex 0x300#16))
    let t' := draw true (effectiveAddress false s'.i) 0x0#4 0x0#4 0x1#4 s'
    let e := atIndex 0xFFE#16
    pixelsAre true t.fb [(2, 5)] = true ∧ getV t 0xF#4 = 0#8 ∧
    pixelsAre false t'.fb [(0, 0)] = true ∧ pixelsAre true t'.fb [(1, 0)] = true ∧ getV t' 0xF#4 = 1#8 ∧
    recordIs .outOfBounds 0x200#16 (some 0xD123#16) (some 0x1000) (draw true (ea e) 0x1#4 0x2#4 0x3#4 e) = true := by decide

/-! ## Random, keys, timers (2.5) -/

/-- KT-2: whatever the draw. -/
theorem test_rnd_mask_0 : ∃ t, exec (.rnd 0x3#4 0x00#8) State.reset = .next t ∧ getV t 0x3#4 = 0x00#8 := by
  refine ⟨_, rfl, ?_⟩
  show (_ &&& 0x00#8 : Byte) = 0x00#8
  exact BitVec.and_zero

/-- KT-4: the low nibble of V2 names the key. -/
theorem test_skp : answers (exec (.skp 0x2#4) (setKeyState 0x5#4 true (withV [(0x2#4, 0x15#8)]))) (fun t => t.pc == 0x204#16) := by
  decide

/-- KT-5. -/
theorem test_sknp : answers (exec (.sknp 0x2#4) (setKeyState 0x5#4 true (withV [(0x2#4, 0x05#8)]))) (fun t => t.pc == 0x202#16) := by
  decide

/-- KT-11. -/
theorem test_ldFromDt : answers (exec (.ldFromDt 0x5#4) (setDt 0x3C#8 State.reset)) (fun t => getV t 0x5#4 == 0x3C#8) := by decide

/-- KT-12: ten ticks empty the timer and an eleventh leaves it. -/
theorem test_ldDt : answers (exec (.ldDt 0x0#4) (withV [(0x0#4, 0x0A#8)]))
    (fun t => t.dt == 0x0A#8 && (tickTimes 9 t).dt == 0x01#8 && (tickTimes 10 t).dt == 0x00#8 && (tickTimes 11 t).dt == 0x00#8) := by
  decide

/-- KT-13. -/
theorem test_ldSt : answers (exec (.ldSt 0x4#4) (withV [(0x4#4, 0x05#8)]))
    (fun t => t.st == 0x05#8 && soundOn t && soundOn (tickTimes 4 t) && !soundOn (tickTimes 5 t)) := by decide

/-- KT-6: FX0A keeps pc and a step without a press changes nothing. -/
theorem test_ldK_waits : exec (.ldK 0x3#4) State.reset = .next waiting ∧ step waiting = .next waiting := ⟨rfl, rfl⟩

/-- KT-6: the step after the press stores the key. -/
theorem test_ldK_completes : answers (step (setKeyState 0xB#4 true waiting))
    (fun t => getV t 0x3#4 == 0x0B#8 && t.pc == 0x202#16 && t.drv == .ready && t.pending == none) := by decide

/-- KT-7, KT-8: a key already held ends no wait until it is released and pressed again. -/
theorem test_key_held : let s := setDriver (.waitingForKey 0x3#4) none (setKeyState 0x3#4 true State.reset)
    (setKeyState 0x3#4 true s).pending = none ∧
    (setKeyState 0x3#4 true (setKeyState 0x3#4 false s)).pending = some 0x3#4 := by decide

/-- KT-9: the first press wins and its release is ignored. -/
theorem test_first_press_wins :
    (setKeyState 0x2#4 false (setKeyState 0x9#4 true (setKeyState 0x2#4 true waiting))).pending = some 0x2#4 := by decide

/-- KT-10, DR-2: ticks run in every driver state. -/
theorem test_tick_in_every_driver_state : (tickTimers (setDt 0x03#8 waiting)).dt = 0x02#8 ∧
    (tickTimers (setDt 0x04#8 haltedState)).dt = 0x03#8 := by decide

/-! ## Driver and load (2.6) -/

/-- DR-1. -/
theorem test_step_halted : transact .step haltedState =
    .next (haltedState, .err { kind := .unknownOpcode, pc := 0x200#16, opcode := some 0x8108#16, addr := none }) := rfl

/-- One byte more than MAX_ROM. -/
theorem too_long (b : Byte) : maxRom < (List.replicate 3585 b).length := by rw [List.length_replicate]; decide

/-- DR-3. -/
theorem test_load_too_long : transact (.load (List.replicate 3585 0x12#8)) haltedState = .next (haltedState, .romTooLarge) := by
  simp only [transact, loadRom, if_pos (too_long 0x12#8)]

/-- DR-4 (the shape of it, with a short image, after a halt). -/
theorem test_load_short : ∃ t, transact (.load [0x12#8, 0x34#8]) haltedState = .next (t, .ok) ∧
    t.mem.read 0x200 = 0x12#8 ∧ t.mem.read 0x201 = 0x34#8 ∧ t.mem.read 0x202 = 0x00#8 ∧ t.mem.read 0x050 = 0xF0#8 ∧
    t.pc = 0x200#16 ∧ t.drv = .ready := ⟨_, rfl, by decide⟩

/-- DR-5: the empty image's first word is 0000. -/
theorem test_step_after_empty_load : answers (step State.reset) (recordIs .unknownOpcode 0x200#16 (some 0x0000#16) none) := by decide

/-- DR-6: the fetch at 0xFFE is in range. -/
theorem test_fetch_at_FFE : answers (step ((atPc 0xFFE#16).withFetchWord 16 0x1200)) (fun t => t.pc == 0x200#16) := by decide

/-- AL-33 through the step: an illegal word halts with its record. -/
theorem test_step_unknown : answers (step (State.reset.withFetchWord 16 0x8108))
    (fun t => recordIs .unknownOpcode 0x200#16 (some 0x8108#16) none t && t.pc == 0x200#16) := by decide

/-- DR-8: stored bytes are fetched. -/
theorem test_self_modifying : let s := setI 0x302#16 (withV [(0x0#4, 0x12#8), (0x1#4, 0x00#8)])
    answers (exec (.ldStore 0x1#4) s) (fun t => match fetchWord (jumpTo 0x302#16 t) with
      | .ok w => w == 0x1200#16
      | .error _ => false) := by decide

/-! ## The hypotheses of the obligations are met, each clause at a boundary of its range -/

theorem witness_DecodeOfEncodeIsTheInstruction : wellFormed (.sys 0x0E1#12) = true ∧ wellFormed (.drw 0xF#4 0xF#4 0xF#4) = true := by
  decide

theorem witness_EncodeOfDecodeIsTheWord : decode 0xFF65#16 = .ok (.ldLoad 0xF#4) := rfl

/-- One word of each kind of R79's list, at a boundary of it. -/
theorem witness_IllegalWord : IllegalWord 0x5121#16 ∧ IllegalWord 0x9FFF#16 ∧ IllegalWord 0x8108#16 ∧ IllegalWord 0x800F#16 ∧
    IllegalWord 0xE09F#16 ∧ IllegalWord 0xFFFF#16 := by
  exact ⟨.inl ⟨.inl rfl, by decide⟩, .inl ⟨.inr rfl, by decide⟩, .inr (.inl ⟨rfl, by decide⟩), .inr (.inl ⟨rfl, by decide⟩),
    .inr (.inr (.inl ⟨rfl, by decide⟩)), .inr (.inr (.inr ⟨rfl, by decide⟩))⟩

theorem witness_IllegalAndSysWordsRaiseUnknownOpcode :
    ((State.reset.withFetchWord 16 0x8108).drv = .ready ∧ fetchWord (State.reset.withFetchWord 16 0x8108) = .ok 0x8108#16 ∧
      IllegalWord 0x8108#16) ∧
    ((State.reset.withFetchWord 16 0x00E1).drv = .ready ∧ fetchWord (State.reset.withFetchWord 16 0x00E1) = .ok 0x00E1#16 ∧
      opField 0x00E1#16 = 0x0#4 ∧ 0x00E1#16 ≠ 0x00E0#16 ∧ 0x00E1#16 ≠ 0x00EE#16) :=
  ⟨⟨rfl, rfl, witness_IllegalWord.2.2.1⟩, rfl, rfl, by decide⟩

theorem witness_StepExecutesTheDecodedInstruction : let s := (atPc 0xFFE#16).withFetchWord 16 0x6A42
    s.drv = .ready ∧ s.pc.toNat ≤ 0xFFE ∧
      decode (wordOfBytes (s.mem.read s.pc.toNat) (s.mem.read (s.pc.toNat + 1))) = .ok (.ldImm 0xA#4 0x42#8) :=
  ⟨rfl, by decide, rfl⟩

theorem witness_FetchOutsideMemoryHalts : ((atPc 0xFFF#16).drv = .ready ∧ 0xFFE < (atPc 0xFFF#16).pc.toNat) ∧
    ((atPc 0x1000#16).drv = .ready ∧ 0xFFE < (atPc 0x1000#16).pc.toNat) ∧ (atPc 0xFFE#16).pc.toNat ≤ 0xFFE := by decide

theorem witness_KeyWaitStepsUntilAKeyIsPending : (waiting.drv = .waitingForKey 0x3#4 ∧ waiting.pending = none) ∧
    ((setKeyState 0xF#4 true waiting).drv = .waitingForKey 0x3#4 ∧ (setKeyState 0xF#4 true waiting).pending = some 0xF#4) := by decide

theorem witness_HaltedLeavesOnlyByLoad :
    (haltedState.drv = .halted { kind := .unknownOpcode, pc := 0x200#16, opcode := some 0x8108#16, addr := none }) ∧
    (∃ t, transact (.load []) haltedState = .next (t, .ok) ∧ t.drv = .ready) ∧
    (transact (.load (List.replicate 3585 0x12#8)) haltedState = .next (haltedState, .romTooLarge)) :=
  ⟨rfl, ⟨_, rfl, rfl⟩, test_load_too_long⟩

/-- An instruction's own error, an unknown word and a failed fetch. -/
theorem witness_ErrorsArePrecise :
    (∃ t e, (State.reset.withFetchWord 16 0x00EE).drv = .ready ∧ step (State.reset.withFetchWord 16 0x00EE) = .next t ∧
      t.drv = .halted e ∧ fetchWord (State.reset.withFetchWord 16 0x00EE) = .ok 0x00EE#16) ∧
    (∃ t e, (State.reset.withFetchWord 16 0xFFFF).drv = .ready ∧ step (State.reset.withFetchWord 16 0xFFFF) = .next t ∧
      t.drv = .halted e ∧ fetchWord (State.reset.withFetchWord 16 0xFFFF) = .ok 0xFFFF#16) ∧
    (∃ t e, (atPc 0xFFF#16).drv = .ready ∧ step (atPc 0xFFF#16) = .next t ∧ t.drv = .halted e ∧
      fetchWord (atPc 0xFFF#16) = .error 0x1000) :=
  ⟨⟨_, _, rfl, rfl, rfl, rfl⟩, ⟨_, _, rfl, rfl, rfl, rfl⟩, _, _, rfl, rfl, rfl, rfl⟩

/-- A step in Ready, WaitingForKey and Halted; the other transactions answer in the same way (EveryInterleavingIsARun). -/
theorem witness_DriverTransitionsAreTheTable :
    (∃ t, transact .step (State.reset.withFetchWord 16 0x1200) = .next (t, .ok) ∧ t.drv = .ready) ∧
    (∃ t, transact .step waiting = .next (t, .ok) ∧ t.drv = .waitingForKey 0x3#4) ∧
    (∃ t e, transact .step haltedState = .next (t, .err e) ∧ t.drv = .halted e) := by
  refine ⟨⟨_, rfl, ?_⟩, ⟨_, rfl, ?_⟩, _, _, rfl, ?_⟩ <;> rfl

/-- The four ways of a step in Ready that halt or wait: a failed fetch, an unknown word, a failing instruction, FX0A. -/
theorem witness_DriverTransitions_ready :
    fetchWord (atPc 0xFFF#16) = .error 0x1000 ∧
    (fetchWord (State.reset.withFetchWord 16 0x8108) = .ok 0x8108#16 ∧ decode 0x8108#16 = .error (.unknown 0x8108#16)) ∧
    (fetchWord (State.reset.withFetchWord 16 0x00EE) = .ok 0x00EE#16 ∧ FailureCondition .ret (State.reset.withFetchWord 16 0x00EE)) ∧
    (fetchWord (State.reset.withFetchWord 16 0xF30A) = .ok 0xF30A#16 ∧ decode 0xF30A#16 = .ok (.ldK 0x3#4)) := by
  and_intros <;> rfl

/-- Each failure condition at the boundary where it begins to hold. -/
theorem witness_FailureCondition_holds :
    FailureCondition (.call 0x300#12) (setStack (List.replicate 16 0x202#16) State.reset) ∧
    FailureCondition (.drw 0x0#4 0x0#4 0x1#4) (atIndex 0x1000#16) ∧ FailureCondition (.ldB 0x0#4) (atIndex 0xFFE#16) ∧
    FailureCondition (.ldB 0x0#4) (atIndex 0x1FF#16) ∧ FailureCondition (.ldStore 0xF#4) (atIndex 0xFF1#16) ∧
    FailureCondition (.ldLoad 0xF#4) (atIndex 0xFF1#16) :=
  ⟨Nat.le_refl 16, ⟨0, by decide⟩, ⟨2, by decide⟩, ⟨0, by decide⟩, ⟨15, by decide⟩, 15, by decide⟩

/-- And where it does not hold yet. -/
theorem witness_FailureCondition_fails :
    ¬ FailureCondition (.call 0x300#12) (setStack (List.replicate 15 0x202#16) State.reset) ∧
    ¬ FailureCondition .ret (setStack [0x202#16] State.reset) ∧
    ¬ FailureCondition (.drw 0x0#4 0x0#4 0x0#4) (atIndex 0xFFFF#16) ∧ ¬ FailureCondition (.ldLoad 0xF#4) (atIndex 0xFF0#16) := by
  refine ⟨by simp [FailureCondition, setStack], by simp [FailureCondition, setStack], ?_, ?_⟩
  · rintro ⟨k, hk, -⟩
    exact absurd hk (Nat.not_lt_zero k)
  · rintro ⟨k, hk, hbad⟩
    have hk : k ≤ 15 := hk
    have hbad : 0xFFF < 0xFF0 + k := hbad
    omega

theorem witness_StepRepliesErrExactlyWhenHalted : (∃ t e, transact .step State.reset = .next (t, .err e) ∧ t.drv = .halted e) ∧
    (∃ t, transact .step waiting = .next (t, .ok) ∧ t.drv = .waitingForKey 0x3#4) := ⟨⟨_, _, rfl, rfl⟩, _, rfl, rfl⟩

theorem witness_SelfJumpIdles : IdlesAtSelfJump (State.reset.withFetchWord 16 0x1200) := ⟨rfl, _, _, rfl, rfl, rfl⟩

theorem witness_SysRaisesUnknownOpcode : wellFormed (.sys 0x000#12) = true ∧ wellFormed (.sys 0x0EF#12) = true := by decide

/-- DT moves by FX15 and by a tick, ST by FX18. -/
theorem witness_TimersMoveOnlyByTickOrTimerWrite :
    (∃ t r, transact .step ((withV [(0x0#4, 0xFF#8)]).withFetchWord 16 0xF015) = .next (t, r) ∧ t.dt ≠ State.reset.dt) ∧
    (∃ t r, transact .step ((withV [(0x0#4, 0x01#8)]).withFetchWord 16 0xF018) = .next (t, r) ∧ t.st ≠ State.reset.st) ∧
    (∃ t r, transact .tickTimers (setDt 0x01#8 State.reset) = .next (t, r) ∧ t.dt ≠ 0x01#8) :=
  ⟨⟨_, _, rfl, by decide⟩, ⟨_, _, rfl, by decide⟩, _, _, rfl, by decide⟩

theorem witness_SoundLastsAsManyTicksAsFx18Sets : ∃ t, exec (.ldSt 0x4#4) (withV [(0x4#4, 0x01#8)]) = .next t ∧ t.st = 0x01#8 :=
  ⟨_, rfl, by decide⟩

theorem witness_AcceptedLoadResetsEverything : ([] : List Byte).length ≤ 3584 ∧ (List.replicate 3584 0xFF#8).length ≤ 3584 := by
  rw [List.length_replicate]; decide

theorem witness_GlyphsStandWhereFx29Points : (∃ t, loadRom [0x12#8] State.reset = .ok t) ∧ 4 < 5 := ⟨⟨_, rfl⟩, by decide⟩

theorem witness_TooLongLoadChangesNothing : 3584 < (List.replicate 3585 0xFF#8).length := too_long 0xFF#8

/-- The latch clause, and each way to miss it. -/
theorem witness_SetKeyStateLatchesTheFirstNewPress :
    ((∃ x, waiting.drv = .waitingForKey x) ∧ waiting.pending = none ∧ keyPressed waiting 0xF#4 = false) ∧
    ¬ (∃ x, State.reset.drv = .waitingForKey x) ∧
    (setKeyState 0xF#4 true waiting).pending ≠ none ∧
    keyPressed (setKeyState 0xF#4 true State.reset) 0xF#4 = true := by
  refine ⟨⟨⟨_, rfl⟩, rfl, by decide⟩, ?_, by decide, by decide⟩
  rintro ⟨x, h⟩
  cases h

theorem witness_KeyWaitEndsAtTheStepAfterANewPress :
    let s := State.reset.withFetchWord 16 0xF30A
    s.drv = .ready ∧ fetchWord s = .ok 0xF30A#16 ∧ decode 0xF30A#16 = .ok (.ldK 0x3#4) ∧ keyPressed s 0xF#4 = false ∧
      keyPressed (setKeyState 0xF#4 true s) 0xF#4 = true ∧ fetchWord (setKeyState 0xF#4 true s) = .ok 0xF30A#16 :=
  ⟨rfl, rfl, rfl, by decide, by decide, rfl⟩

theorem reset_inv : Inv State.reset where
  memory := rfl
  depth := by decide
  returns := by intro a h; cases h
  pcBound := by decide
  latch := by intro h; exact absurd rfl h
  waiting := by intro x h; cases h
  record := by intro e h; cases h

theorem witness_EveryStepKeepsTheInvariant : Inv State.reset ∧ ∃ t, step State.reset = .next t := ⟨reset_inv, _, rfl⟩

theorem witness_EveryTransactionKeepsTheInvariant : Inv State.reset ∧
    ∃ t r, transact (.load [0x12#8, 0x00#8]) State.reset = .next (t, r) := ⟨reset_inv, _, _, rfl⟩

/-- A step that stores at 0x200, a refused load and an accepted one. -/
theorem witness_LowMemoryIsNeverWritten : let s := (atIndex 0x200#16).withFetchWord 16 0xF033
    s.mem.wf = true ∧ 0x1FF < 0x200 ∧ (∃ t r, transact .step s = .next (t, r) ∧ ∀ rom, Transaction.step ≠ .load rom) ∧
    (∃ t, transact (.load (List.replicate 3585 0x12#8)) haltedState = .next (t, .romTooLarge)) ∧
    (∃ t, transact (.load [0x12#8]) haltedState = .next (t, .ok)) :=
  ⟨rfl, by decide, ⟨_, _, rfl, fun _ h => Transaction.noConfusion h⟩, ⟨_, test_load_too_long⟩, _, rfl⟩

theorem witness_RegistersChangeOnlyAsTheTableNames : (∃ t, exec (.ldLoad 0xE#4) State.reset = .next t) ∧
    0xF#4 ∉ writtenRegisters (.ldLoad 0xE#4) := ⟨⟨_, rfl⟩, by decide⟩

/-- Each part does change by some instruction. -/
theorem witness_PartsChangeOnlyByTheirInstructions :
    (∃ t, exec (.ldI 0x300#12) State.reset = .next t ∧ t.i ≠ State.reset.i) ∧
    (∃ t, exec (.call 0x300#12) State.reset = .next t ∧ t.stack ≠ State.reset.stack) ∧
    (∃ t, exec .cls (setFb (togglePixel blankFrame 63 31) State.reset) = .next t ∧
      pixel t.fb 63 31 ≠ pixel (togglePixel blankFrame 63 31) 63 31) ∧
    (∃ t, exec (.ldB 0x0#4) (setI 0x200#16 (withV [(0x0#4, 0xFF#8)])) = .next t ∧ t.mem.read 0x200 ≠ State.reset.mem.read 0x200) :=
  ⟨⟨_, rfl, by decide⟩, ⟨_, rfl, by decide⟩, ⟨_, rfl, by decide⟩, _, rfl, by decide⟩

theorem witness_KeysChangeOnlyByTheHost :
    (∃ t r, transact (.setKeyState 0xF#4 true) State.reset = .next (t, r) ∧ keyPressed t 0xF#4 ≠ keyPressed State.reset 0xF#4) ∧
    (∃ t r, transact (.load []) (setKeyState 0x0#4 true State.reset) = .next (t, r) ∧ keyPressed t 0x0#4 = false ∧
      keyPressed (setKeyState 0x0#4 true State.reset) 0x0#4 = true) := ⟨⟨_, _, rfl, by decide⟩, _, _, rfl, by decide, by decide⟩

theorem witness_SoundStackAndKeysAreHiddenFromOtherInstructions : (∃ t, exec .cls State.reset = .next t) ∧
    (∀ x, Instr.cls ≠ .ldSt x) ∧ Instr.cls ≠ .ret ∧ (∀ nnn, Instr.cls ≠ .call nnn) ∧ (∀ x, Instr.cls ≠ .skp x) ∧
    (∀ x, Instr.cls ≠ .sknp x) :=
  ⟨⟨_, rfl⟩, fun x h => Instr.noConfusion h, by decide, fun x h => Instr.noConfusion h, fun x h => Instr.noConfusion h,
    fun x h => Instr.noConfusion h⟩

theorem witness_StoredBytesAreFetchedNext : State.reset.mem.wf = true ∧ 0x200 ≤ (atIndex 0xFFE#16).i.toNat ∧
    (atIndex 0xFFE#16).i.toNat + (0x1#4 : Nibble).toNat ≤ 0xFFF ∧ 0 + 1 ≤ (0x1#4 : Nibble).toNat := ⟨rfl, by decide⟩

theorem witness_RetPopsTheNewestAddress : (∃ a rest, (setStack [0x202#16] State.reset).stack = a :: rest) ∧ State.reset.stack = [] :=
  ⟨⟨_, _, rfl⟩, rfl⟩

theorem witness_CallPushesTheNextAddress : (setStack (List.replicate 15 0x202#16) State.reset).stack.length < 16 ∧
    (setStack (List.replicate 16 0x202#16) State.reset).stack.length = 16 := by decide

theorem witness_SixteenCallsNestAndTheNextOverflows : (setStack (List.replicate 16 0x202#16) State.reset).stack.length = 16 ∧
    State.reset.stack = [] ∧ (List.replicate 16 0x300#12).length ≤ 16 ∧
    (List.replicate 16 0x300#12).length = 16 := by decide

theorem witness_ReturnUndoesCall : let s := setStack (List.replicate 15 0x202#16) State.reset
    s.stack.length < 16 ∧ ∃ t, exec (.call 0x300#12) s = .next t ∧ (setStack t.stack State.reset).stack = t.stack :=
  ⟨by decide, _, rfl, rfl⟩

theorem witness_AddImmediateWrapsWithoutFlag : (0xE#4 : Nibble) ≠ vf := by decide

theorem witness_AddRegisterSetsCarry : (0xE#4 : Nibble) ≠ vf := by decide

theorem witness_SubtractsSetNoBorrow : (0x0#4 : Nibble) ≠ vf := by decide

theorem witness_ShiftsMoveTheQuirkOperandByOne : (0x0#4 : Nibble) ≠ vf := by decide

/-- All three addresses writable at both ends, below 0x200, past 0xFFF. -/
theorem witness_BcdStoresThreeDigitsOrFails : State.reset.mem.wf = true ∧
    (0x200 ≤ (atIndex 0x200#16).i.toNat ∧ (atIndex 0x200#16).i.toNat + 2 ≤ 0xFFF) ∧
    (0x200 ≤ (atIndex 0xFFD#16).i.toNat ∧ (atIndex 0xFFD#16).i.toNat + 2 ≤ 0xFFF) ∧
    (atIndex 0x1FF#16).i.toNat < 0x200 ∧ 0xFFF < (atIndex 0xFFE#16).i.toNat + 2 := ⟨rfl, by decide⟩

/-- The same, for sixteen registers and for one. -/
theorem witness_RegisterStoreWritesV0ToVxOrFails : State.reset.mem.wf = true ∧
    (0x200 ≤ (atIndex 0xFF0#16).i.toNat ∧ (atIndex 0xFF0#16).i.toNat + (0xF#4 : Nibble).toNat ≤ 0xFFF) ∧
    (0x200 ≤ (atIndex 0xFFF#16).i.toNat ∧ (atIndex 0xFFF#16).i.toNat + (0x0#4 : Nibble).toNat ≤ 0xFFF) ∧
    (atIndex 0x1FF#16).i.toNat < 0x200 ∧ 0xFFF < (atIndex 0xFF1#16).i.toNat + (0xF#4 : Nibble).toNat := ⟨rfl, by decide⟩

theorem witness_RegisterLoadReadsV0ToVxOrFails :
    (atIndex 0xFF0#16).i.toNat + (0xF#4 : Nibble).toNat ≤ 0xFFF ∧ (0xE#4 : Nibble).toNat < (0xF#4 : Nibble).toNat ∧
    0xFFF < (atIndex 0x1000#16).i.toNat + (0x0#4 : Nibble).toNat := by decide

theorem witness_OtherParameterValuesLiftTheChecks : (atIndex 0x1FF#16).i.toNat + 3 ≤ 0x1000 ∧
    (atIndex 0x000#16).i.toNat + 3 ≤ 0x1000 := by decide

/-- No row at any I, the last row at 0xFFF, one past it. -/
theorem witness_DrawTogglesCoveredPixelsAndFlagsCollision : (0x0#4 : Nibble) = 0#4 ∧
    (atIndex 0xFFF#16).i.toNat + (0x1#4 : Nibble).toNat ≤ 0x1000 ∧ (0x1#4 : Nibble) ≠ 0#4 ∧
    0x1000 < (atIndex 0x1000#16).i.toNat + (0x1#4 : Nibble).toNat := by decide

/-- A pixel the sprite covers, under either value of the quirk, and one it does not. -/
theorem witness_SpriteCovers : (∀ wraps, SpriteCovers wraps 63 31 (fun _ => 0x80#8) 1 63 31) ∧
    (∀ wraps, ¬ SpriteCovers wraps 63 31 (fun _ => 0x00#8) 1 63 31) := by
  constructor
  · intro wraps
    exact ⟨0, 0, by decide, by decide, by decide, by cases wraps <;> decide⟩
  · rintro wraps ⟨j, b, -, -, h, -⟩
    simp at h

/-- The second draw on the framebuffer the first left, the last sprite byte at 0xFFF. -/
theorem witness_DrawingTwiceRestoresTheScreen : (atIndex 0xFFF#16).i.toNat + (0x1#4 : Nibble).toNat ≤ 0x1000 ∧
    ∃ t, exec (.drw 0x0#4 0x1#4 0x1#4) (atIndex 0xFFF#16) = .next t ∧ (setFb t.fb (atIndex 0xFFF#16)).fb = t.fb ∧
      (setFb t.fb (atIndex 0xFFF#16)).i = (atIndex 0xFFF#16).i ∧
      (∀ r, getV (setFb t.fb (atIndex 0xFFF#16)) r = getV (atIndex 0xFFF#16) r) ∧
      (∀ a, (setFb t.fb (atIndex 0xFFF#16)).mem.read a = (atIndex 0xFFF#16).mem.read a) ∧
      (setFb t.fb (atIndex 0xFFF#16)).session = (atIndex 0xFFF#16).session :=
  ⟨by decide, _, rfl, rfl, rfl, fun _ => rfl, fun _ => rfl, rfl⟩

/-- The last clause of DrawingTwiceRestoresTheScreen, at the edge of its range: of the two pixels of DS-10's sprite, drawn over
one set and one unset, the unset one is enough. -/
theorem witness_DrawingTwice_one_pixel_unset : let s := setFb (togglePixel blankFrame 0 0) (setMem [(0x300, 0xC0#8)] (atIndex 0x300#16))
    ∀ wraps, ∃ (px : Fin 64) (py : Fin 32), pixel s.fb px py = false ∧
      SpriteCovers wraps ((getV s 0x0#4).toNat % 64) ((getV s 0x0#4).toNat % 32) (fun j => s.mem.read (ea s j)) 1 px.val py.val := by
  intro s wraps
  exact ⟨1, 0, by decide, 0, 1, by decide, by decide, by decide, by cases wraps <;> decide⟩

theorem witness_SecondDrawFlagsEveryDrawnSprite : let s := setFb (togglePixel blankFrame 0 0) (setMem [(0x300, 0x80#8)] (atIndex 0x300#16))
    ∃ t u', exec (.drw 0x0#4 0x1#4 0x1#4) s = .next t ∧ t.drv = s.drv ∧ (setFb t.fb s).fb = t.fb ∧
      (setFb t.fb s).i = s.i ∧ (∀ r, getV (setFb t.fb s) r = getV s r) ∧ (∀ a, (setFb t.fb s).mem.read a = s.mem.read a) ∧
      (setFb t.fb s).session = s.session ∧ exec (.drw 0x0#4 0x1#4 0x1#4) (setFb t.fb s) = .next u' :=
  ⟨_, _, rfl, rfl, rfl, rfl, fun _ => rfl, fun _ => rfl, rfl, rfl⟩

theorem witness_KeySkipsTestTheLowNibbleKey : let s := setKeyState 0x5#4 true (withV [(0x2#4, 0xF5#8)])
    (0x5#4 : Nibble).toNat = (getV s 0x2#4).toNat % 16 ∧ keyPressed s 0x5#4 = true ∧ keyPressed s 0x4#4 = false := by decide

/-- A schedule in two parts: an accepted load, then a step and a tick. -/
theorem witness_EveryInterleavingIsARun :
    ∃ t u, transact (.load [0x12#8, 0x00#8]) haltedState = .next (t, .ok) ∧
      runSchedule [.load [0x12#8, 0x00#8]] haltedState = .next (t, [.ok]) ∧
      runSchedule [.step, .tickTimers] t = .next (u, [.ok, .ok]) := by
  exact ⟨_, _, rfl, rfl, rfl⟩

theorem witness_EveryRunKeepsTheInvariant : Inv State.reset ∧ ([0x12#8, 0x00#8] : List Byte).length ≤ 3584 ∧
    (∃ t rs, runSchedule [.step, .setKeyState 0xF#4 true] State.reset = .next (t, rs)) ∧
    (∃ t rs, runSchedule [.load [0x12#8, 0x00#8], .step] haltedState = .next (t, rs)) := by
  exact ⟨reset_inv, by decide, ⟨_, _, rfl⟩, _, _, rfl⟩

end Sys2Proof.Tests
end

section
/-! What an instruction does to memory, the control flow and the driver, and the invariant `Inv` of the machine: it holds
right after reset and after every accepted load, and every step keeps it. -/

namespace Sys2Proof.Machine

/-! ## Instructions whose meaning branches on the stack -/

theorem exec_ret_empty {s : State} (h : s.stack = []) : exec .ret s = .next (raise .stackUnderflow .ret none s) := by
  simp only [exec, execRet, h]

theorem exec_ret_pop {s : State} {a : Word} {rest : List Word} (h : s.stack = a :: rest) :
    exec .ret s = .next (jumpTo a (setStack rest s)) := by
  simp only [exec, execRet, h]

theorem exec_call_room {s : State} (nnn : Addr12) (h : s.stack.length < 16) :
    exec (.call nnn) s = .next (jumpTo (zext16 nnn) (setStack ((s.pc + 2#16) :: s.stack) s)) := if_pos h

theorem exec_call_full {s : State} (nnn : Addr12) (h : ¬ s.stack.length < 16) :
    exec (.call nnn) s = .next (raise .stackOverflow (.call nnn) none s) := if_neg h

/-! ## The effect of an instruction -/

/-- How an instruction that does not fail moves pc and the stack from `s` to `t`. -/
inductive ControlFlow (s t : State) : Prop
  /-- On to the next instruction, or past it (R24, R166). -/
  | onward (stack : t.stack = s.stack) (pc : t.pc = s.pc + 2#16 ∨ t.pc = s.pc + 4#16)
  /-- A jump: the largest target is that of BNNN (R27, R165). -/
  | jump (stack : t.stack = s.stack) (pc : t.pc.toNat ≤ 0x10FE)
  /-- A call with room on the stack (R164). -/
  | call (room : s.stack.length < 16) (stack : t.stack = (s.pc + 2#16) :: s.stack) (pc : t.pc.toNat ≤ 0x10FE)
  /-- A return with an address on the stack (R162). -/
  | ret (stack : s.stack = t.pc :: t.stack)

/-- All an instruction can make of `s`, seen from memory, the control flow and the driver. -/
inductive Effect (i : Instr) (s : State) : State → Prop
  /-- Its own check fails (R105, R256). -/
  | fails {kind : ErrorKind} (addr : Option Nat) (hkind : kind ≠ .romTooLarge) : Effect i s (raise kind i addr s)
  /-- FX0A enters the key wait (R234). -/
  | waits (x : Nibble) : Effect i s (setDriver (.waitingForKey x) none s)
  /-- It completes: the driver stays, and memory stays canonical. -/
  | completes {t : State} (drv : t.drv = s.drv) (pending : t.pending = s.pending)
      (memory : s.mem.wf = true → t.mem.wf = true) (flow : ControlFlow s t) : Effect i s t

/-- An instruction that advances pc and touches neither memory nor stack nor driver. -/
theorem Effect.advance {i : Instr} {s u : State} (mem : u.mem = s.mem) (stack : u.stack = s.stack) (pc : u.pc = s.pc)
    (drv : u.drv = s.drv) (pending : u.pending = s.pending) : Effect i s (advance u) :=
  .completes drv pending (fun h => by rwa [advance_mem, mem]) (.onward stack (.inl (by rw [advance_pc, pc])))

theorem Effect.skipIf (i : Instr) (c : Bool) (s : State) : Effect i s (skipIf c s) := by
  refine .completes rfl rfl id (.onward rfl ?_)
  cases c
  · exact .inl rfl
  · exact .inr rfl

theorem Effect.jumpTo (i : Instr) (s : State) {a : Word} (h : a.toNat ≤ 0x10FE) : Effect i s (jumpTo a s) :=
  .completes rfl rfl id (.jump rfl h)

theorem Effect.storeAtIndex (protect : Bool) (i : Instr) (eaOf : Nat → Nat) (f : Nat → Byte) (n : Nat) (i' : Word) (s : State) :
    Effect i s (storeAtIndex protect i eaOf f n i' s) := by
  obtain ⟨k, -, -, -, h⟩ | ⟨hok, h⟩ := storeAtIndex_cases protect i eaOf f n i' s <;> rw [h]
  · exact .fails _ (by decide)
  · exact .completes rfl rfl (fun hwf => wf_storeBytes hwf fun k hk => ((writable_iff _ _).1 (hok k hk)).1)
      (.onward rfl (.inl rfl))

theorem Effect.loadAtIndex (i : Instr) (eaOf : Nat → Nat) (n : Nat) (i' : Word) (s : State) :
    Effect i s (loadAtIndex i eaOf n i' s) := by
  obtain ⟨k, -, -, -, h⟩ | ⟨-, h⟩ := loadAtIndex_cases i eaOf n i' s <;> rw [h]
  · exact .fails _ (by decide)
  · exact .advance (by simp) (by simp) (by simp) (by simp) (by simp)

theorem Effect.draw (wraps : Bool) (eaOf : Nat → Nat) (x y n : Nibble) (s : State) :
    Effect (.drw x y n) s (draw wraps eaOf x y n s) := by
  obtain ⟨a, -, h⟩ | ⟨-, h⟩ := draw_cases wraps eaOf x y n s <;> rw [h]
  · exact .fails _ (by decide)
  · exact .advance rfl rfl rfl rfl rfl

theorem zext16_le (nnn : Addr12) : (zext16 nnn).toNat ≤ 0xFFF := by
  have := nnn.isLt
  simp only [zext16, BitVec.toNat_setWidth]
  omega

/-- BNNN's target at its largest, 0xFFF + 0xFF (R27, R165). -/
theorem zext16_add_byte_le (nnn : Addr12) (b : Byte) : (zext16 nnn + b.setWidth 16).toNat ≤ 0x10FE := by
  have := zext16_le nnn
  have := b.isLt
  simp only [BitVec.toNat_add, BitVec.toNat_setWidth]
  omega

/-- The one inversion lemma of `exec`: every instruction answers a next state, and all it can be is an `Effect`. -/
theorem exec_effect (i : Instr) (s : State) : Completes i s (Effect i s) := by
  cases i with
  | cls | ldImm | addImm | ldReg | or | and | xor | addReg | sub | shr | subn | shl | ldI | rnd | ldFromDt | ldDt | ldSt
  | addI | ldF => exact ⟨_, rfl, .advance rfl rfl rfl rfl rfl⟩
  | seImm | sneImm | seReg | sneReg | skp | sknp => exact ⟨_, rfl, .skipIf _ _ _⟩
  | sys => exact ⟨_, rfl, .fails _ (by decide)⟩
  | jp nnn => exact ⟨_, rfl, .jumpTo _ _ (Nat.le_trans (zext16_le nnn) (by decide))⟩
  | jpOff nnn => exact ⟨_, rfl, .jumpTo _ _ (zext16_add_byte_le nnn _)⟩
  | ret =>
    cases hs : s.stack with
    | nil => exact ⟨_, exec_ret_empty hs, .fails _ (by decide)⟩
    | cons a rest => exact ⟨_, exec_ret_pop hs, .completes rfl rfl id (.ret hs)⟩
  | call nnn =>
    by_cases hroom : s.stack.length < 16
    · exact ⟨_, exec_call_room nnn hroom, .completes rfl rfl id (.call hroom rfl (Nat.le_trans (zext16_le nnn) (by decide)))⟩
    · exact ⟨_, exec_call_full nnn hroom, .fails _ (by decide)⟩
  | ldK x => exact ⟨_, rfl, .waits x⟩
  | ldB | ldStore => exact ⟨_, rfl, .storeAtIndex _ _ _ _ _ _ _⟩
  | ldLoad => exact ⟨_, rfl, .loadAtIndex _ _ _ _ _⟩
  | drw => exact ⟨_, rfl, .draw _ _ _ _ _ _⟩

/-- What holds of the completed instruction holds of the state it answers. -/
theorem Completes.post {i : Instr} {s t : State} {post : State → Prop} (h : Completes i s post) (ht : exec i s = .next t) :
    post t := by
  obtain ⟨u, hu, hpost⟩ := h
  cases hu.symm.trans ht
  exact hpost

/-! ## The invariant -/

/-- The invariant of a Ready state: the clauses on the wait and on the record ask nothing. -/
theorem inv_of_ready {s : State} (memory : s.mem.wf = true) (depth : s.stack.length ≤ 16)
    (returns : ∀ a ∈ s.stack, a.toNat ≤ 0x1000) (pcBound : s.pc.toNat ≤ 0x10FE) (hdrv : s.drv = .ready)
    (hpending : s.pending = none) : Inv s where
  memory := memory
  depth := depth
  returns := returns
  pcBound := pcBound
  latch h := absurd hpending h
  waiting x h := by rw [hdrv] at h; cases h
  record e h := by rw [hdrv] at h; cases h

/-- R37: the latch is empty when the driver is Ready. -/
theorem Inv.pending_of_ready {s : State} (h : Inv s) (hdrv : s.drv = .ready) : s.pending = none := by
  cases hp : s.pending with
  | none => rfl
  | some k =>
    obtain ⟨x, hx⟩ := h.latch (by rw [hp]; exact Option.some_ne_none k)
    rw [hdrv] at hx
    cases hx

/-- The state after a load of the empty image or of any other that fits: the reset values with a canonical memory. -/
theorem inv_reset_with (m : Memory) (draws session : Nat) (hm : m.wf = true) :
    Inv { State.reset with mem := m, draws := draws, session := session } :=
  inv_of_ready hm (Nat.zero_le 16) (by simp [State.reset]) (show State.reset.pc.toNat ≤ 0x10FE by decide) rfl rfl

/-- Settles O22: reset is the reset values with the empty memory. -/
theorem resetSatisfiesTheInvariant : Obligations.ResetSatisfiesTheInvariant :=
  inv_reset_with [] 0 0 wf_reset

/-- Entering Halted from Ready keeps the invariant: the record takes the pc that is still held (R105). -/
theorem Inv.haltWith {s : State} (h : Inv s) (hdrv : s.drv = .ready) {kind : ErrorKind} (hkind : kind ≠ .romTooLarge)
    (opcode : Option Word) (addr : Option Nat) : Inv (haltWith kind opcode addr s) where
  memory := h.memory
  depth := h.depth
  returns := h.returns
  pcBound := h.pcBound
  latch hne := absurd (h.pending_of_ready hdrv) hne
  waiting x hx := by cases hx
  record e he := by cases he; exact ⟨rfl, hkind⟩

theorem Inv.keyWaitStep {s : State} (h : Inv s) {x : Nibble} (hdrv : s.drv = .waitingForKey x) : Inv (keyWaitStep x s) := by
  unfold Machine.keyWaitStep
  split
  · exact h
  · have hpc := h.waiting x hdrv
    refine inv_of_ready h.memory h.depth h.returns ?_ rfl rfl
    simp only [setDriver_pc, advance_pc, setV_pc]
    bv_omega

/-- The control flow keeps pc and the return addresses inside their bounds, and the depth. -/
theorem ControlFlow.bounds {s t : State} (h : ControlFlow s t) (hs : Inv s) (hpc : s.pc.toNat ≤ 0xFFE) :
    t.stack.length ≤ 16 ∧ (∀ a ∈ t.stack, a.toNat ≤ 0x1000) ∧ t.pc.toNat ≤ 0x10FE := by
  cases h with
  | onward stack pc =>
    rw [stack]
    refine ⟨hs.depth, hs.returns, ?_⟩
    rcases pc with pc | pc <;> rw [pc] <;> bv_omega
  | jump stack pc =>
    rw [stack]
    exact ⟨hs.depth, hs.returns, pc⟩
  | call room stack pc =>
    rw [stack]
    refine ⟨room, fun a ha => ?_, pc⟩
    rcases List.mem_cons.1 ha with rfl | ha
    · bv_omega
    · exact hs.returns a ha
  | ret stack =>
    have hdepth := hs.depth
    have hreturns := hs.returns
    rw [stack] at hdepth hreturns
    simp only [List.length_cons] at hdepth
    exact ⟨by omega, fun a ha => hreturns a (List.mem_cons_of_mem _ ha),
      Nat.le_trans (hreturns t.pc List.mem_cons_self) (by decide)⟩

/-- Every instruction executed in Ready at a fetchable pc keeps the invariant. -/
theorem Inv.effect {i : Instr} {s t : State} (hs : Inv s) (hdrv : s.drv = .ready) (hpc : s.pc.toNat ≤ 0xFFE)
    (h : Effect i s t) : Inv t := by
  cases h with
  | fails addr hkind => exact hs.haltWith hdrv hkind _ addr
  | waits x =>
    exact { memory := hs.memory, depth := hs.depth, returns := hs.returns, pcBound := hs.pcBound
            latch := fun hne => absurd rfl hne
            waiting := fun _ _ => hpc
            record := fun e he => by cases he }
  | completes drv pending memory flow =>
    obtain ⟨hdepth, hreturns, hpc'⟩ := flow.bounds hs hpc
    exact inv_of_ready (memory hs.memory) hdepth hreturns hpc' (drv.trans hdrv) (pending.trans (hs.pending_of_ready hdrv))

/-- Settles O23, by the five ways of a step; an executed instruction keeps the invariant by what its effect can be. -/
theorem everyStepKeepsTheInvariant : Obligations.EveryStepKeepsTheInvariant := by
  intro s t hs hstep
  obtain ⟨e, -, h⟩ | ⟨x, hdrv, h⟩ | ⟨hdrv, a, -, h⟩ | ⟨hdrv, w, -, -, h⟩ | ⟨hdrv, w, i, hfetch, -, h⟩ := step_cases s <;>
    rw [h] at hstep
  · cases hstep; exact hs
  · cases hstep; exact hs.keyWaitStep hdrv
  · cases hstep; exact hs.haltWith hdrv (by decide) _ _
  · cases hstep; exact hs.haltWith hdrv (by decide) _ _
  · exact hs.effect hdrv (fetchWord_ok.1 hfetch).1 ((exec_effect i s).post hstep)

end Sys2Proof.Machine
end

section
/-! The frame of every instruction: one frame rule per state operation, and from these what each instruction may change. -/

namespace Sys2Proof.Machine

/-! ## One frame rule per state operation -/

section FrameRules

variable {parts : List Part} {regs : List Nibble} {s u : State}

theorem OnlyChanges.advance (h : OnlyChanges parts regs s u) : OnlyChanges parts regs s (advance u) := h

theorem OnlyChanges.skipIf (h : OnlyChanges parts regs s u) (c : Bool) : OnlyChanges parts regs s (skipIf c u) := h

theorem OnlyChanges.jumpTo (h : OnlyChanges parts regs s u) (a : Word) : OnlyChanges parts regs s (jumpTo a u) := h

theorem OnlyChanges.setV (h : OnlyChanges parts regs s u) {x : Nibble} (hx : x ∈ regs) (b : Byte) :
    OnlyChanges parts regs s (setV u x b) := by
  obtain ⟨hregs, hparts⟩ := h
  refine ⟨fun r hr => ?_, hparts⟩
  rw [getV_setV_other u b (ne_of_mem_of_not_mem hx hr).symm]
  exact hregs r hr

theorem OnlyChanges.setResultAndFlag (h : OnlyChanges parts regs s u) {x : Nibble} (hx : x ∈ regs) (hvf : vf ∈ regs)
    (b : Byte) (c : Bool) : OnlyChanges parts regs s (setResultAndFlag x b c u) := (h.setV hx b).setV hvf _

theorem OnlyChanges.loadRegisters (h : OnlyChanges parts regs s u) (f : Nat → Byte) {n : Nat}
    (hregs : ∀ k, k < n → BitVec.ofNat 4 k ∈ regs) : OnlyChanges parts regs s (loadRegisters f n u) := by
  induction n with
  | zero => exact h
  | succ n ih => exact (ih fun k hk => hregs k (by omega)).setV (hregs n (by omega)) _

theorem OnlyChanges.setMem (h : OnlyChanges parts regs s u) (hp : .memory ∈ parts) (m : Memory) :
    OnlyChanges parts regs s (setMem m u) := by
  obtain ⟨hregs, -, hrest⟩ := h
  exact ⟨hregs, absurd hp, hrest⟩

theorem OnlyChanges.setI (h : OnlyChanges parts regs s u) {w : Word} (hw : .index ∉ parts → w = s.i) :
    OnlyChanges parts regs s (setI w u) := by
  obtain ⟨hregs, hmem, -, hrest⟩ := h
  exact ⟨hregs, hmem, hw, hrest⟩

theorem OnlyChanges.setStack (h : OnlyChanges parts regs s u) (hp : .stack ∈ parts) (l : List Word) :
    OnlyChanges parts regs s (setStack l u) := by
  obtain ⟨hregs, hmem, hi, -, hrest⟩ := h
  exact ⟨hregs, hmem, hi, absurd hp, hrest⟩

theorem OnlyChanges.setDt (h : OnlyChanges parts regs s u) (hp : .delay ∈ parts) (b : Byte) :
    OnlyChanges parts regs s (setDt b u) := by
  obtain ⟨hregs, hmem, hi, hstack, -, hrest⟩ := h
  exact ⟨hregs, hmem, hi, hstack, absurd hp, hrest⟩

theorem OnlyChanges.setSt (h : OnlyChanges parts regs s u) (hp : .sound ∈ parts) (b : Byte) :
    OnlyChanges parts regs s (setSt b u) := by
  obtain ⟨hregs, hmem, hi, hstack, hdt, -, hrest⟩ := h
  exact ⟨hregs, hmem, hi, hstack, hdt, absurd hp, hrest⟩

theorem OnlyChanges.setFb (h : OnlyChanges parts regs s u) (hp : .screen ∈ parts) (fb : Frame) :
    OnlyChanges parts regs s (setFb fb u) := by
  obtain ⟨hregs, hmem, hi, hstack, hdt, hst, -, hrest⟩ := h
  exact ⟨hregs, hmem, hi, hstack, hdt, hst, absurd hp, hrest⟩

theorem OnlyChanges.haltWith (h : OnlyChanges parts regs s u) (hp : .driver ∈ parts) (kind : ErrorKind)
    (opcode : Option Word) (addr : Option Nat) : OnlyChanges parts regs s (haltWith kind opcode addr u) := by
  obtain ⟨hregs, hmem, hi, hstack, hdt, hst, hfb, hkeys, -, hrest⟩ := h
  exact ⟨hregs, hmem, hi, hstack, hdt, hst, hfb, hkeys, absurd hp, hrest⟩

theorem OnlyChanges.setDriver (h : OnlyChanges parts regs s u) (hd : .driver ∈ parts) (hl : .latch ∈ parts) (d : Driver)
    (p : Option Nibble) : OnlyChanges parts regs s (setDriver d p u) := by
  obtain ⟨hregs, hmem, hi, hstack, hdt, hst, hfb, hkeys, -, -, hrest⟩ := h
  exact ⟨hregs, hmem, hi, hstack, hdt, hst, hfb, hkeys, absurd hd, absurd hl, hrest⟩

theorem OnlyChanges.countDraw (h : OnlyChanges parts regs s u) (hp : .draws ∈ parts) :
    OnlyChanges parts regs s (countDraw u) := by
  obtain ⟨hregs, hmem, hi, hstack, hdt, hst, hfb, hkeys, hdrv, hpending, -, hsession⟩ := h
  exact ⟨hregs, hmem, hi, hstack, hdt, hst, hfb, hkeys, hdrv, hpending, absurd hp, hsession⟩

end FrameRules

/-! ## The frame of every instruction -/

/-- The parts of the state an instruction may change, its failure included; its registers are `writtenRegisters`. -/
def writtenParts (i : Instr) : List Part :=
  match i with
  | .cls => [.screen]
  | .sys _ => [.driver]
  | .ret | .call _ => [.stack, .driver]
  | .ldI _ | .addI _ | .ldF _ => [.index]
  | .rnd _ _ => [.draws]
  | .drw _ _ _ => [.screen, .driver]
  | .ldK _ => [.driver, .latch]
  | .ldDt _ => [.delay]
  | .ldSt _ => [.sound]
  | .ldB _ => [.memory, .driver]
  | .ldStore _ => [.memory, .index, .driver]
  | .ldLoad _ => [.index, .driver]
  | .jp _ | .seImm _ _ | .sneImm _ _ | .seReg _ _ | .ldImm _ _ | .addImm _ _ | .ldReg _ _ | .or _ _ | .and _ _ | .xor _ _
  | .addReg _ _ | .sub _ _ | .shr _ _ | .subn _ _ | .shl _ _ | .sneReg _ _ | .jpOff _ | .skp _ | .sknp _ | .ldFromDt _ => []

theorem onlyChanges_storeAtIndex {parts : List Part} {i' : Word} {s : State} (hd : .driver ∈ parts) (hm : .memory ∈ parts)
    (hi : .index ∉ parts → i' = s.i) (regs : List Nibble) (protect : Bool) (ins : Instr) (eaOf : Nat → Nat) (f : Nat → Byte)
    (n : Nat) : OnlyChanges parts regs s (storeAtIndex protect ins eaOf f n i' s) := by
  have same := onlyChanges_refl parts regs s
  obtain ⟨k, -, -, -, h⟩ | ⟨-, h⟩ := storeAtIndex_cases protect ins eaOf f n i' s <;> rw [h]
  · exact same.haltWith hd _ _ _
  · exact ((same.setMem hm _).setI hi).advance

/-- FX65 for `X + 1` bytes loads the registers it names. -/
theorem onlyChanges_loadAtIndex (x : Nibble) (ins : Instr) (eaOf : Nat → Nat) (i' : Word) (s : State) :
    OnlyChanges (writtenParts (.ldLoad x)) (writtenRegisters (.ldLoad x)) s
      (loadAtIndex ins eaOf (registerCount x) i' s) := by
  have same := onlyChanges_refl (writtenParts (.ldLoad x)) (writtenRegisters (.ldLoad x)) s
  obtain ⟨k, -, -, -, h⟩ | ⟨-, h⟩ := loadAtIndex_cases ins eaOf (registerCount x) i' s <;> rw [h]
  · exact same.haltWith (by simp [writtenParts]) _ _ _
  · have loaded := same.loadRegisters (fun k => s.mem.read (eaOf k)) (n := registerCount x)
      fun k hk => List.mem_map_of_mem (List.mem_range.2 hk)
    exact (loaded.setI (absurd (by simp [writtenParts]))).advance

theorem onlyChanges_draw (wraps : Bool) (eaOf : Nat → Nat) (x y n : Nibble) (s : State) :
    OnlyChanges [.screen, .driver] [vf] s (draw wraps eaOf x y n s) := by
  have same := onlyChanges_refl [.screen, .driver] [vf] s
  obtain ⟨a, -, h⟩ | ⟨-, h⟩ := draw_cases wraps eaOf x y n s <;> rw [h]
  · exact same.haltWith (by simp) _ _ _
  · exact ((same.setFb (by simp) _).setV (by simp) _).advance

/-- R23, R28-R35, R58: an instruction changes no register and no part of the state but those its write lists name. -/
theorem exec_onlyChanges (i : Instr) (s : State) : Completes i s (OnlyChanges (writtenParts i) (writtenRegisters i) s) := by
  have same := onlyChanges_refl (writtenParts i) (writtenRegisters i) s
  cases i with
  | cls => exact ⟨_, rfl, (same.setFb List.mem_cons_self _).advance⟩
  | ldImm | addImm | ldReg | or | and | xor | ldFromDt => exact ⟨_, rfl, (same.setV List.mem_cons_self _).advance⟩
  | addReg | sub | shr | subn | shl =>
    exact ⟨_, rfl, (same.setResultAndFlag List.mem_cons_self (by simp [writtenRegisters]) _ _).advance⟩
  | rnd => exact ⟨_, rfl, ((same.setV List.mem_cons_self _).countDraw List.mem_cons_self).advance⟩
  | seImm | sneImm | seReg | sneReg | skp | sknp => exact ⟨_, rfl, same.skipIf _⟩
  | sys => exact ⟨_, rfl, same.haltWith List.mem_cons_self _ _ _⟩
  | jp | jpOff => exact ⟨_, rfl, same.jumpTo _⟩
  | ret =>
    cases hs : s.stack with
    | nil => exact ⟨_, exec_ret_empty hs, same.haltWith (by simp [writtenParts]) _ _ _⟩
    | cons a rest => exact ⟨_, exec_ret_pop hs, (same.setStack List.mem_cons_self _).jumpTo _⟩
  | call nnn =>
    by_cases hroom : s.stack.length < 16
    · exact ⟨_, exec_call_room nnn hroom, (same.setStack List.mem_cons_self _).jumpTo _⟩
    · exact ⟨_, exec_call_full nnn hroom, same.haltWith (by simp [writtenParts]) _ _ _⟩
  | ldI | addI | ldF => exact ⟨_, rfl, (same.setI (absurd List.mem_cons_self)).advance⟩
  | ldDt => exact ⟨_, rfl, (same.setDt List.mem_cons_self _).advance⟩
  | ldSt => exact ⟨_, rfl, (same.setSt List.mem_cons_self _).advance⟩
  | ldK => exact ⟨_, rfl, same.setDriver List.mem_cons_self (by simp [writtenParts]) _ _⟩
  | drw => exact ⟨_, rfl, onlyChanges_draw _ _ _ _ _ _⟩
  | ldB => exact ⟨_, rfl, onlyChanges_storeAtIndex (by simp) List.mem_cons_self (fun _ => rfl) _ _ _ _ _ _⟩
  | ldStore =>
    exact ⟨_, rfl, onlyChanges_storeAtIndex (by simp) List.mem_cons_self (absurd (by simp)) _ _ _ _ _ _⟩
  | ldLoad x => exact ⟨_, rfl, onlyChanges_loadAtIndex x _ _ _ _⟩

/-! ## Which instructions name a part -/

theorem index_mem_writtenParts {i : Instr} (h : .index ∈ writtenParts i) :
    (∃ nnn, i = .ldI nnn) ∨ ∃ x, i = .addI x ∨ i = .ldF x ∨ i = .ldStore x ∨ i = .ldLoad x := by
  cases i <;> simp [writtenParts] at h ⊢

theorem stack_mem_writtenParts {i : Instr} (h : .stack ∈ writtenParts i) : i = .ret ∨ ∃ nnn, i = .call nnn := by
  cases i <;> simp [writtenParts] at h ⊢

theorem screen_mem_writtenParts {i : Instr} (h : .screen ∈ writtenParts i) : i = .cls ∨ ∃ x y n, i = .drw x y n := by
  cases i <;> simp [writtenParts] at h ⊢

theorem memory_mem_writtenParts {i : Instr} (h : .memory ∈ writtenParts i) : ∃ x, i = .ldB x ∨ i = .ldStore x := by
  cases i <;> simp [writtenParts] at h ⊢

theorem keys_notMem_writtenParts (i : Instr) : .keys ∉ writtenParts i := by
  cases i <;> simp [writtenParts]

/-- Settles O27, from the frame of every instruction. -/
theorem partsChangeOnlyByTheirInstructions : Obligations.PartsChangeOnlyByTheirInstructions := by
  intro i s t h
  obtain ⟨-, hmem, hi, hstack, -, -, hfb, hkeys, -⟩ := (exec_onlyChanges i s).post h
  refine ⟨fun hne => index_mem_writtenParts ?_, fun hne => stack_mem_writtenParts ?_,
    fun px py hne => screen_mem_writtenParts ?_, fun a hne => memory_mem_writtenParts ?_,
    hkeys (keys_notMem_writtenParts i)⟩
  · exact Decidable.not_not.1 fun hn => hne (hi hn)
  · exact Decidable.not_not.1 fun hn => hne (hstack hn)
  · exact Decidable.not_not.1 fun hn => hne (hfb hn px py)
  · exact Decidable.not_not.1 fun hn => hne (hmem hn a)

/-! ## The keys under every transaction -/

theorem step_keyPressed {s t : State} (h : step s = .next t) (k : Nibble) : keyPressed t k = keyPressed s k := by
  obtain ⟨e, -, hs⟩ | ⟨x, -, hs⟩ | ⟨-, a, -, hs⟩ | ⟨-, w, -, -, hs⟩ | ⟨-, w, i, -, -, hs⟩ := step_cases s <;>
    rw [hs] at h
  · cases h; rfl
  · cases h
    unfold keyWaitStep
    split <;> rfl
  · cases h; rfl
  · cases h; rfl
  · obtain ⟨-, -, -, -, -, -, -, hkeys, -⟩ := (exec_onlyChanges i s).post h
    exact hkeys (keys_notMem_writtenParts i) k

/-- A `step` transaction that answers is a step that answers. -/
theorem transact_step {s t : State} {r : Reply} (h : transact .step s = .next (t, r)) : step s = .next t := by
  simp only [transact] at h
  split at h
  · rename_i hs; cases h; exact hs
  · cases h
  · cases h

/-- Settles O28, by the six transactions. -/
theorem keysChangeOnlyByTheHost : Obligations.KeysChangeOnlyByTheHost := by
  intro s t tr r h k hne
  cases tr with
  | load rom =>
    obtain ⟨-, -, hl⟩ | ⟨-, -, hl⟩ := transact_load rom s <;> cases hl.symm.trans h
    · exact .inr ⟨⟨rom, rfl⟩, by simp [keyPressed, State.reset]⟩
    · exact absurd rfl hne
  | step => exact absurd (step_keyPressed (transact_step h) k) hne
  | setKeyState j p =>
    cases h
    rw [keyPressed_setKeyState] at hne
    by_cases hkj : k = j
    · exact .inl ⟨p, by rw [hkj]⟩
    · exact absurd (if_neg hkj) hne
  | tickTimers | readFrame | querySound => cases h; exact absurd rfl hne

end Sys2Proof.Machine
end

section
/-! ST, the stack and the keys are hidden from the instructions that do not name them. -/

namespace Sys2Proof.Machine

/-- `s` with what it holds in ST, the stack and the keys replaced through the three functions. -/
def overlay (sound : Byte → Byte) (stack : List Word → List Word) (keys : Vector Bool 16 → Vector Bool 16) (s : State) : State :=
  { s with st := sound s.st, stack := stack s.stack, keys := keys s.keys }

section Overlay

variable (sound : Byte → Byte) (stack : List Word → List Word) (keys : Vector Bool 16 → Vector Bool 16)

theorem loadRegisters_overlay (f : Nat → Byte) (n : Nat) (s : State) :
    loadRegisters f n (overlay sound stack keys s) = overlay sound stack keys (loadRegisters f n s) := by
  induction n with
  | zero => rfl
  | succ n ih => rw [loadRegisters, ih]; rfl

theorem storeAtIndex_overlay (protect : Bool) (ins : Instr) (eaOf : Nat → Nat) (f : Nat → Byte) (n : Nat) (i' : Word) (s : State) :
    storeAtIndex protect ins eaOf f n i' (overlay sound stack keys s) =
      overlay sound stack keys (storeAtIndex protect ins eaOf f n i' s) := by
  unfold storeAtIndex
  split <;> rfl

theorem loadAtIndex_overlay (ins : Instr) (eaOf : Nat → Nat) (n : Nat) (i' : Word) (s : State) :
    loadAtIndex ins eaOf n i' (overlay sound stack keys s) = overlay sound stack keys (loadAtIndex ins eaOf n i' s) := by
  unfold loadAtIndex
  split
  · rfl
  · rw [loadRegisters_overlay]; rfl

theorem draw_overlay (wraps : Bool) (eaOf : Nat → Nat) (x y n : Nibble) (s : State) :
    draw wraps eaOf x y n (overlay sound stack keys s) = overlay sound stack keys (draw wraps eaOf x y n s) := by
  unfold draw
  split <;> rfl

/-- R33, R30, R35: an instruction commutes with the overlay of what it does not name. -/
theorem exec_overlay (i : Instr) (s : State) (hsound : ∀ x, i = .ldSt x → sound = id)
    (hret : i = .ret → stack = id) (hcall : ∀ nnn, i = .call nnn → stack = id)
    (hskp : ∀ x, i = .skp x → keys = id) (hsknp : ∀ x, i = .sknp x → keys = id) :
    Completes i s fun t => exec i (overlay sound stack keys s) = .next (overlay sound stack keys t) := by
  cases i with
  | cls | sys | jp | seImm | sneImm | seReg | ldImm | addImm | ldReg | or | and | xor | addReg | sub | shr | subn | shl
  | sneReg | ldI | jpOff | rnd | ldFromDt | ldK | ldDt | addI | ldF => exact ⟨_, rfl, rfl⟩
  | ldSt x =>
    obtain rfl := hsound x rfl
    exact ⟨_, rfl, rfl⟩
  | skp x =>
    obtain rfl := hskp x rfl
    exact ⟨_, rfl, rfl⟩
  | sknp x =>
    obtain rfl := hsknp x rfl
    exact ⟨_, rfl, rfl⟩
  | ret =>
    obtain rfl := hret rfl
    cases hs : s.stack with
    | nil => exact ⟨_, exec_ret_empty hs, exec_ret_empty hs⟩
    | cons a rest => exact ⟨_, exec_ret_pop hs, exec_ret_pop hs⟩
  | call nnn =>
    obtain rfl := hcall nnn rfl
    by_cases hroom : s.stack.length < 16
    · exact ⟨_, exec_call_room nnn hroom, exec_call_room nnn hroom⟩
    · exact ⟨_, exec_call_full nnn hroom, exec_call_full nnn hroom⟩
  | drw => exact ⟨_, rfl, congrArg _ (draw_overlay sound stack keys _ _ _ _ _ _)⟩
  | ldB | ldStore => exact ⟨_, rfl, congrArg _ (storeAtIndex_overlay sound stack keys _ _ _ _ _ _ _)⟩
  | ldLoad => exact ⟨_, rfl, congrArg _ (loadAtIndex_overlay sound stack keys _ _ _ _ _)⟩

end Overlay

/-- Settles O29: replacing one part is an overlay that leaves the other two. -/
theorem soundStackAndKeysAreHiddenFromOtherInstructions :
    Obligations.SoundStackAndKeysAreHiddenFromOtherInstructions := by
  intro i s t h
  refine ⟨fun b hst => ?_, fun k hret hcall => ?_, fun ks hskp hsknp => ?_⟩
  · exact (exec_overlay (fun _ => b) id id i s (fun x e => absurd e (hst x)) (fun _ => rfl) (fun _ _ => rfl)
      (fun _ _ => rfl) (fun _ _ => rfl)).post h
  · exact (exec_overlay id (fun _ => k) id i s (fun _ _ => rfl) (fun e => absurd e hret) (fun nnn e => absurd e (hcall nnn))
      (fun _ _ => rfl) (fun _ _ => rfl)).post h
  · exact (exec_overlay id id (fun _ => ks) i s (fun _ _ => rfl) (fun _ => rfl) (fun _ _ => rfl)
      (fun x e => absurd e (hskp x)) (fun x e => absurd e (hsknp x))).post h

end Sys2Proof.Machine
end

section
/-! What an accepted load leaves: the reset values, the image, and the font where FX29 points. -/

namespace Sys2Proof.Machine

/-- R41, R281: after an accepted load an address reads as the image's byte, or as right after reset. -/
theorem read_loadRom {rom : List Byte} {s t : State} (h : loadRom rom s = .ok t) (a : Nat) :
    t.mem.read a = if 0x200 ≤ a ∧ a < 0x200 + rom.length then rom.getD (a - 0x200) 0 else initialByte a := by
  obtain ⟨hlen, hl, -⟩ | ⟨-, hl, -⟩ := transact_load rom s <;> cases hl.symm.trans h
  have hfit : loadAddress + rom.length ≤ memSize := by
    simp only [maxRom, memSize, loadAddress] at hlen ⊢
    omega
  exact read_copyBytes rom wf_reset hfit a

/-- Settles O17, from the accepted way of a load. -/
theorem acceptedLoadResetsEverything : Obligations.AcceptedLoadResetsEverything := by
  intro rom s hlen
  obtain ⟨-, hload, htransact⟩ | ⟨hlong, -⟩ := transact_load rom s
  · refine ⟨_, htransact, fun a _ => read_loadRom hload a, ?_, rfl, rfl, rfl, rfl, rfl, pixel_blankFrame, ?_, rfl, rfl, rfl⟩
    · intro r
      simp [getV, State.reset]
    · intro k
      simp [keyPressed, State.reset]
  · simp only [maxRom, memSize, loadAddress] at hlong
    omega

theorem lowNibble_toNat (b : Byte) : (lowNibble b).toNat = b.toNat % 16 := by
  simp [lowNibble, BitVec.extractLsb'_toNat]

/-- R192: FX29 points `I` at the glyph of the register's low digit. -/
theorem exec_ldF (x : Nibble) (s : State) :
    exec (.ldF x) s = .next { s with i := BitVec.ofNat 16 (0x050 + 5 * ((getV s x).toNat % 16)), pc := s.pc + 2#16 } := by
  rw [← lowNibble_toNat]
  rfl

/-- R40: inside the font an address holds the font's byte right after reset. -/
theorem initialByte_font {j : Nat} (hj : j < 80) : initialByte (0x050 + j) = fontData.getD j 0 := by
  have hfont : fontBase ≤ 0x050 + j ∧ 0x050 + j < fontBase + 80 := by
    simp only [fontBase]
    omega
  rw [initialByte, if_pos hfont, fontBase, Nat.add_sub_cancel_left]

/-- Settles O18: the font stands below the image, and R40's table is `fontData`. -/
theorem glyphsStandWhereFx29Points : Obligations.GlyphsStandWhereFx29Points := by
  intro rom s t u x k hload hk
  refine ⟨exec_ldF x u, ?_⟩
  have hdigit := Nat.mod_lt (getV u x).toNat (show 0 < 16 by decide)
  rw [read_loadRom hload, if_neg (by omega), Nat.add_assoc, initialByte_font (by omega)]
  rfl

end Sys2Proof.Machine
end

section
/-! Memory (20_memory.md): the low region under every transaction, the bytes a store leaves for the next fetch, and the
accesses under the other parameter values. -/

namespace Sys2Proof.Machine

/-! ## Accesses whose every address passes the check -/

theorem storeAtIndex_of_writable {protect : Bool} {eaOf : Nat → Nat} {n : Nat}
    (hok : ∀ k, k < n → writable protect (eaOf k) = true) (ins : Instr) (f : Nat → Byte) (i' : Word) (s : State) :
    storeAtIndex protect ins eaOf f n i' s = advance (setI i' (setMem (storeBytes eaOf f n s.mem) s)) := by
  rw [storeAtIndex, firstBad_none.2 hok]

theorem loadAtIndex_of_readable {eaOf : Nat → Nat} {n : Nat} (hok : ∀ k, k < n → readable (eaOf k) = true)
    (ins : Instr) (i' : Word) (s : State) :
    loadAtIndex ins eaOf n i' s = advance (setI i' (loadRegisters (fun k => s.mem.read (eaOf k)) n s)) := by
  rw [loadAtIndex, firstBad_none.2 hok]

theorem draw_of_readable {eaOf : Nat → Nat} {n : Nibble} (hok : ∀ k, k < n.toNat → readable (eaOf k) = true)
    (wraps : Bool) (x y : Nibble) (s : State) :
    draw wraps eaOf x y n s =
      advance (setFlag (drawSprite wraps eaOf x y n s).hit (setFb (drawSprite wraps eaOf x y n s).fb s)) := by
  rw [draw, firstBad_none.2 hok]

/-! ## The other parameter values -/

/-- R55: a wrapped address lies inside memory. -/
theorem readable_effectiveAddress_wrap (i : Word) (k : Nat) : readable (effectiveAddress true i k) = true :=
  (readable_iff _).2 (Nat.mod_lt _ (by decide))

/-- Settles O49: under each of the other values every address of the access passes its check. -/
theorem otherParameterValuesLiftTheChecks : Obligations.OtherParameterValuesLiftTheChecks := by
  refine ⟨fun ins f n i' s hin => ?_, fun _ _ => rfl, fun ins n i' s => ?_, fun wraps x y n s => ?_⟩
  · refine storeAtIndex_of_writable (fun k hk => (writable_iff false _).2 ⟨?_, nofun⟩) ins f i' s
    rw [ea_eq]
    omega
  · rw [loadAtIndex_of_readable fun k _ => readable_effectiveAddress_wrap s.i k]
    simp
  · rw [draw_of_readable fun k _ => readable_effectiveAddress_wrap s.i k]
    rfl

/-! ## What a store at I leaves in memory -/

/-- The stores at I go to distinct addresses: each holds its byte, every other byte stands (R53, R55). -/
theorem read_storeBytes_ea {s : State} (hwf : s.mem.wf = true) (f : Nat → Byte) {n : Nat}
    (hin : ∀ k, k < n → s.i.toNat + k < 0x1000) :
    (∀ k, k < n → (storeBytes (ea s) f n s.mem).read (s.i.toNat + k) = f k) ∧
    (∀ a, (∀ k, k < n → a ≠ s.i.toNat + k) → (storeBytes (ea s) f n s.mem).read a = s.mem.read a) := by
  have h := read_storeBytes (f := f) hwf (eaOf := ea s) (n := n)
    (fun k hk => by rw [ea_eq]; exact hin k hk) (fun j k _ _ hjk => by simpa using hjk)
  simpa only [ea_eq] using h

/-- R194: FX55 with every address inside the writable region. -/
theorem exec_ldStore_of_writable {x : Nibble} {s : State} (hlow : 0x200 ≤ s.i.toNat) (hin : s.i.toNat + x.toNat ≤ 0xFFF) :
    exec (.ldStore x) s = .next (advance (setI
      (indexAfter (quirks s).loadStoreIncrementsIndex s.i (registerCount x))
      (setMem (storeBytes (ea s) (fun k => getV s (BitVec.ofNat 4 k)) (registerCount x) s.mem) s))) := by
  refine congrArg _ (storeAtIndex_of_writable (fun k hk => (writable_iff _ _).2 ?_) _ _ _ s)
  rw [registerCount] at hk
  rw [ea_eq]
  exact ⟨by omega, fun _ => by omega⟩

/-- Settles O30: the store leaves register `k` at `I + k`, and the fetch reads the two bytes at `I + k` and `I + k + 1`. -/
theorem storedBytesAreFetchedNext : Obligations.StoredBytesAreFetchedNext := by
  intro x s k hwf hlow hin hk
  obtain ⟨hstored, -⟩ := read_storeBytes_ea hwf (fun k => getV s (BitVec.ofNat 4 k)) (n := registerCount x)
    (fun j hj => by rw [registerCount] at hj; omega)
  have hpc : (BitVec.ofNat 16 (s.i.toNat + k)).toNat = s.i.toNat + k := Nat.mod_eq_of_lt (by omega)
  refine ⟨_, exec_ldStore_of_writable hlow hin, fetchWord_ok.2 ?_⟩
  simp only [ea_eq, hpc, advance_mem, setI_mem, setMem_mem]
  rw [Nat.add_assoc, hstored k (by rw [registerCount]; omega), hstored (k + 1) (by rw [registerCount]; omega)]
  exact ⟨by omega, rfl⟩

/-! ## The region below LOAD_ADDRESS -/

section LowMemory
variable {s t : State} {a : Nat}

/-- R53: a store at I under protection writes no byte below 0x200, whether it fails or not. -/
theorem read_storeAtIndex_low (hwf : s.mem.wf = true) (ha : a < 0x200) (ins : Instr) (f : Nat → Byte) (n : Nat) (i' : Word) :
    (storeAtIndex protectLowMemory ins (ea s) f n i' s).mem.read a = s.mem.read a := by
  obtain ⟨k, -, -, -, h⟩ | ⟨hok, h⟩ := storeAtIndex_cases protectLowMemory ins (ea s) f n i' s <;> rw [h]
  · rfl
  · have hbounds : ∀ k, k < n → s.i.toNat + k < 0x1000 ∧ 0x200 ≤ s.i.toNat + k := fun k hk => by
      obtain ⟨hin, hlow⟩ := (writable_iff _ _).1 (hok k hk)
      rw [ea_eq] at hin hlow
      exact ⟨hin, hlow rfl⟩
    obtain ⟨-, hkept⟩ := read_storeBytes_ea hwf f fun k hk => (hbounds k hk).1
    exact hkept a fun k hk => Nat.ne_of_lt (Nat.lt_of_lt_of_le ha (hbounds k hk).2)

theorem exec_read_low {i : Instr} (hwf : s.mem.wf = true) (ha : a < 0x200) (h : exec i s = .next t) :
    t.mem.read a = s.mem.read a := by
  by_cases hm : .memory ∈ writtenParts i
  · obtain ⟨x, rfl | rfl⟩ := memory_mem_writtenParts hm <;> cases h <;> exact read_storeAtIndex_low hwf ha _ _ _ _
  · obtain ⟨-, hmem, -⟩ := (exec_onlyChanges i s).post h
    exact hmem hm a

theorem keyWaitStep_mem (x : Nibble) (s : State) : (keyWaitStep x s).mem = s.mem := by
  unfold keyWaitStep
  split <;> rfl

theorem step_read_low (hwf : s.mem.wf = true) (ha : a < 0x200) (h : step s = .next t) : t.mem.read a = s.mem.read a := by
  obtain ⟨e, -, hs⟩ | ⟨x, -, hs⟩ | ⟨-, b, -, hs⟩ | ⟨-, w, -, -, hs⟩ | ⟨-, w, i, -, -, hs⟩ := step_cases s <;>
    rw [hs] at h
  · cases h; rfl
  · cases h; rw [keyWaitStep_mem]
  · cases h; rfl
  · cases h; rfl
  · exact exec_read_low hwf ha h

end LowMemory

/-- Settles O25, by the six transactions; only a load and a step can write memory at all. -/
theorem lowMemoryIsNeverWritten : Obligations.LowMemoryIsNeverWritten := by
  intro s t tr r hwf h a ha
  cases tr with
  | load rom =>
    obtain ⟨hlen, hl, ht⟩ | ⟨hlen, -, ht⟩ := transact_load rom s <;> cases ht.symm.trans h <;>
      simp only [maxRom, memSize, loadAddress] at hlen
    · refine ⟨fun hlong => ?_, fun _ _ _ => ?_⟩
      · have := hlong rom rfl
        omega
      · rw [read_loadRom hl, if_neg (by omega)]
    · refine ⟨fun _ => rfl, fun rom' heq hshort => ?_⟩
      cases heq
      omega
  | step => exact ⟨fun _ => step_read_low hwf ha (transact_step h), nofun⟩
  | tickTimers | setKeyState | readFrame | querySound => cases h; exact ⟨fun _ => rfl, nofun⟩

end Sys2Proof.Machine
end

section
/-! Encoding (30_encoding.md): a word is an encoding exactly when its fields are the operands, so `decode` and `encode` are
inverse to each other; the words left over are R79's, and what a step does that fetches one. -/

namespace Sys2Proof.Machine

/-! ## A word is encoded exactly by its fields -/

theorem encodeNnn_eq_iff {op : Nibble} {nnn : Addr12} {w : Word} :
    encodeNnn op nnn = w ↔ opField w = op ∧ nnnField w = nnn := by
  constructor
  · rintro rfl
    exact ⟨opField_encodeNnn op nnn, nnnField_encodeNnn op nnn⟩
  · rintro ⟨rfl, rfl⟩
    exact encodeNnn_fields w

theorem encodeXkk_eq_iff {op x : Nibble} {kk : Byte} {w : Word} :
    encodeXkk op x kk = w ↔ opField w = op ∧ xField w = x ∧ kkField w = kk := by
  constructor
  · rintro rfl
    exact ⟨opField_encodeXkk op x kk, xField_encodeXkk op x kk, kkField_encodeXkk op x kk⟩
  · rintro ⟨rfl, rfl, rfl⟩
    exact encodeXkk_fields w

theorem encodeXyn_eq_iff {op x y n : Nibble} {w : Word} :
    encodeXyn op x y n = w ↔ opField w = op ∧ xField w = x ∧ yField w = y ∧ nField w = n := by
  constructor
  · rintro rfl
    exact ⟨opField_encodeXyn op x y n, xField_encodeXyn op x y n, yField_encodeXyn op x y n, nField_encodeXyn op x y n⟩
  · rintro ⟨rfl, rfl, rfl, rfl⟩
    exact encodeXyn_fields w

/-- The word of 00E0 is the word SYS would have at `clsTail` (R75). -/
theorem eq_cls_iff {w : Word} : w = 0x00E0#16 ↔ opField w = 0x0#4 ∧ nnnField w = clsTail := by
  rw [← encodeNnn_eq_iff, eq_comm]
  rfl

/-- The word of 00EE is the word SYS would have at `retTail` (R75). -/
theorem eq_ret_iff {w : Word} : w = 0x00EE#16 ↔ opField w = 0x0#4 ∧ nnnField w = retTail := by
  rw [← encodeNnn_eq_iff, eq_comm]
  rfl

/-! ## The decoder against the encoder -/

/-- No line of R80 before the instruction's own matches its word: the fixed fields tell them apart, and for SYS its operand
tells it from 00E0 and 00EE. -/
theorem decode_encode {i : Instr} (hwf : wellFormed i = true) : decode (encode i) = .ok i := by
  cases i with
  | cls | ret => rfl
  | sys nnn =>
    obtain ⟨hcls, hret⟩ : nnn ≠ clsTail ∧ nnn ≠ retTail := by simpa [wellFormed] using hwf
    simp [decode, encode, eq_cls_iff, eq_ret_iff, hcls, hret]
  | _ => simp [decode, encode, eq_cls_iff, eq_ret_iff]

theorem decode_of_encode_eq {i : Instr} {w : Word} (hw : encode i = w) (hwf : wellFormed i = true) : decode w = .ok i :=
  hw ▸ decode_encode hwf

/-- Line by line of R80: the fields the line asks for are the fixed fields of its instruction's word, and the operands are
the rest of the word. -/
theorem encode_of_decode {w : Word} {i : Instr} (h : decode w = .ok i) : encode i = w ∧ wellFormed i = true := by
  unfold decode at h
  obtain ⟨rfl, rfl⟩ | ⟨hcls, h⟩ := decode_line_ok h
  · exact ⟨rfl, rfl⟩
  obtain ⟨rfl, rfl⟩ | ⟨hret, h⟩ := decode_line_ok h
  · exact ⟨rfl, rfl⟩
  obtain ⟨hop, rfl⟩ | ⟨-, h⟩ := decode_line_ok h
  · refine ⟨encodeNnn_eq_iff.2 ⟨hop, rfl⟩, ?_⟩
    simp only [eq_cls_iff, eq_ret_iff, hop, true_and] at hcls hret
    simp [wellFormed, hcls, hret]
  iterate 32
    obtain ⟨hfields, rfl⟩ | ⟨-, h⟩ := decode_line_ok h
    · simp [encode, wellFormed, encodeNnn_eq_iff, encodeXkk_eq_iff, encodeXyn_eq_iff, hfields]
  cases h

/-! ## Illegal words and SYS words -/

/-- One line of R80 lets an error through exactly when it does not match. -/
theorem decode_line_error_iff {c : Prop} [Decidable c] {i : Instr} {r : Except DecodeError Instr} {e : DecodeError} :
    (if c then .ok i else r) = .error e ↔ ¬ c ∧ r = .error e := by
  refine ⟨decode_line_error, fun ⟨hc, hr⟩ => ?_⟩
  rw [if_neg hc, hr]

/-- Family by family: the lines of R80 for it leave over what R79 lists for it. In family 8 the one lists the low nibbles that
decode and the other those that do not. -/
theorem decode_unknown_iff {w : Word} : decode w = .error (.unknown w) ↔ IllegalWord w := by
  rcases nibble_cases (opField w) with
    hop | hop | hop | hop | hop | hop | hop | hop | hop | hop | hop | hop | hop | hop | hop | hop <;>
    simp [decode, decode_line_error_iff, eq_cls_iff, eq_ret_iff, IllegalWord, hop]
  -- only family 8 is left
  generalize nField w = n
  revert n
  decide

theorem decode_sys {w : Word} (hop : opField w = 0x0#4) (hcls : w ≠ 0x00E0#16) (hret : w ≠ 0x00EE#16) :
    decode w = .ok (.sys (nnnField w)) := by
  rw [decode, if_neg hcls, if_neg hret, if_pos hop]

/-! ## A step in Ready, by what the fetched word decodes to -/

theorem step_of_decode_error {s : State} {w : Word} {e : DecodeError} (hdrv : s.drv = .ready) (hfetch : fetchWord s = .ok w)
    (hdec : decode w = .error e) : step s = .next (executeUnknown e s) := by
  simp only [step, hdrv, hfetch, hdec]

theorem step_of_decode_ok {s : State} {w : Word} {i : Instr} (hdrv : s.drv = .ready) (hfetch : fetchWord s = .ok w)
    (hdec : decode w = .ok i) : step s = exec i s := by
  simp only [step, hdrv, hfetch, hdec]

theorem transact_of_step {s t : State} (h : step s = .next t) : transact .step s = .next (t, stepReply t) := by
  simp only [transact, h]

theorem step_illegalWord {s : State} {w : Word} (hdrv : s.drv = .ready) (hfetch : fetchWord s = .ok w)
    (h : IllegalWord w) : step s = .next (haltWith .unknownOpcode (some w) none s) :=
  step_of_decode_error hdrv hfetch (decode_unknown_iff.2 h)

/-- R161: SYS is the UnknownOpcode entry. -/
theorem exec_sys (nnn : Addr12) (s : State) :
    exec (.sys nnn) s = .next (haltWith .unknownOpcode (some (encode (.sys nnn))) none s) := rfl

theorem step_sysWord {s : State} {w : Word} (hdrv : s.drv = .ready) (hfetch : fetchWord s = .ok w)
    (hop : opField w = 0x0#4) (hcls : w ≠ 0x00E0#16) (hret : w ≠ 0x00EE#16) :
    step s = .next (haltWith .unknownOpcode (some w) none s) := by
  have hdec := decode_sys hop hcls hret
  obtain ⟨henc, -⟩ := encode_of_decode hdec
  rw [step_of_decode_ok hdrv hfetch hdec, exec_sys, henc]

/-! ## The obligations -/

/-- Settles O1, by the constructors of `Instr`. -/
theorem decodeOfEncodeIsTheInstruction : Obligations.DecodeOfEncodeIsTheInstruction := fun _ => decode_encode

/-- Settles O2, by the lines of R80. -/
theorem encodeOfDecodeIsTheWord : Obligations.EncodeOfDecodeIsTheWord := fun _ _ => encode_of_decode

/-- Settles O3: an illegal word is a decoding error, a 0NNN word is SYS, and the step ends alike for both. -/
theorem illegalAndSysWordsRaiseUnknownOpcode : Obligations.IllegalAndSysWordsRaiseUnknownOpcode := by
  refine ⟨fun _ => decode_unknown_iff, fun _ => decode_sys, fun s w hdrv hfetch hw => transact_of_step ?_⟩
  obtain hill | ⟨hop, hcls, hret⟩ := hw
  · exact step_illegalWord hdrv hfetch hill
  · exact step_sysWord hdrv hfetch hop hcls hret

/-- Settles O4: each word is the encoding of its instruction. -/
theorem wordsOfEachFamilyDecode : Obligations.WordsOfEachFamilyDecode := by
  refine ⟨?_, ?_, ?_, ?_, ?_, ?_, ?_, ?_, ?_, ?_, ?_, ?_, ?_, ?_, ?_, ?_, ?_, ?_, ?_, ?_⟩ <;>
    exact decode_of_encode_eq rfl rfl

end Sys2Proof.Machine
end

section
/-! The step (40_driver_cycle.md): what it does in each driver state, the key wait, and its reply to the host. -/

namespace Sys2Proof.Machine

/-! ## A step, by driver state (R101) -/

theorem step_of_halted {s : State} {e : ErrorRecord} (hdrv : s.drv = .halted e) : step s = .next s := by
  simp only [step, hdrv]

theorem step_of_waiting {s : State} {x : Nibble} (hdrv : s.drv = .waitingForKey x) : step s = .next (keyWaitStep x s) := by
  simp only [step, hdrv]

theorem step_of_fetch_error {s : State} {a : Nat} (hdrv : s.drv = .ready) (hfetch : fetchWord s = .error a) :
    step s = .next (fetchFailed a s) := by
  simp only [step, hdrv, hfetch]

theorem keyWaitStep_none {s : State} (x : Nibble) (hpending : s.pending = none) : keyWaitStep x s = s := by
  simp only [keyWaitStep, hpending]

theorem keyWaitStep_some {s : State} (x : Nibble) {k : Nibble} (hpending : s.pending = some k) :
    keyWaitStep x s = setDriver .ready none (advance (setV s x (k.setWidth 8))) := by
  simp only [keyWaitStep, hpending]

/-- R106: with key `k` pending the wait completes. -/
theorem keyWaitStep_completes {s : State} (x : Nibble) {k : Nibble} (hpending : s.pending = some k) :
    (getV (keyWaitStep x s) x).toNat = k.toNat ∧ (keyWaitStep x s).pc = s.pc + 2#16 ∧ (keyWaitStep x s).pending = none ∧
      (keyWaitStep x s).drv = .ready := by
  rw [keyWaitStep_some x hpending]
  refine ⟨?_, rfl, rfl, rfl⟩
  rw [getV_setDriver, getV_advance, getV_setV_same, BitVec.toNat_setWidth]
  omega

/-- The key wait stores into one register and moves the driver and the latch, nothing else (R106). -/
theorem onlyChanges_keyWaitStep (x : Nibble) (s : State) : OnlyChanges [.driver, .latch] [x] s (keyWaitStep x s) := by
  have same := onlyChanges_refl [.driver, .latch] [x] s
  cases hp : s.pending with
  | none => rwa [keyWaitStep_none x hp]
  | some k =>
    rw [keyWaitStep_some x hp]
    exact (same.setV List.mem_cons_self _).advance.setDriver (by simp) (by simp) _ _

theorem exec_ldK (x : Nibble) (s : State) : exec (.ldK x) s = .next (setDriver (.waitingForKey x) none s) := rfl

theorem exec_jp (nnn : Addr12) (s : State) : exec (.jp nnn) s = .next (jumpTo (zext16 nnn) s) := rfl

theorem exec_ldSt (x : Nibble) (s : State) : exec (.ldSt x) s = .next (advance (setSt (getV s x) s)) := rfl

/-- Settles O5: the fetch succeeds at such a pc, with the big-endian word there. -/
theorem stepExecutesTheDecodedInstruction : Obligations.StepExecutesTheDecodedInstruction :=
  fun _ _ hdrv hpc hdec => step_of_decode_ok hdrv (fetchWord_ok.2 ⟨hpc, rfl⟩) hdec

/-- Settles O6, from when a fetch fails and what it reads. -/
theorem fetchOutsideMemoryHalts : Obligations.FetchOutsideMemoryHalts :=
  ⟨fun _ hdrv hpc => transact_of_step (step_of_fetch_error hdrv (fetchWord_error.2 ⟨hpc, rfl⟩)),
    fun _ hpc => ⟨_, fetchWord_ok.2 ⟨hpc, rfl⟩, wordOfBytes_toNat _ _⟩⟩

/-- Settles O13: the step is the jump, and its target is the pc it starts from. -/
theorem selfJumpIdles : Obligations.SelfJumpIdles := by
  rintro s ⟨hdrv, w, nnn, hfetch, hdec, hself⟩
  rw [step_of_decode_ok hdrv hfetch hdec, exec_jp, hself]
  rfl

/-- Settles O12, by the five ways of a step and the totality of `exec`. -/
theorem everyStepAnswersANextState : Obligations.EveryStepAnswersANextState := by
  intro s
  obtain ⟨e, -, h⟩ | ⟨x, -, h⟩ | ⟨-, a, -, h⟩ | ⟨-, w, -, -, h⟩ | ⟨-, w, i, -, -, h⟩ := step_cases s
  · exact ⟨_, h⟩
  · exact ⟨_, h⟩
  · exact ⟨_, h⟩
  · exact ⟨_, h⟩
  · obtain ⟨t, ht, -⟩ := exec_effect i s
    exact ⟨t, h.trans ht⟩

/-! ## The reply of a step (R122) -/

theorem stepReply_eq_err_iff {s : State} {e : ErrorRecord} : stepReply s = .err e ↔ s.drv = .halted e := by
  cases hdrv : s.drv <;> simp [stepReply, State.errorRecord, hdrv]

theorem stepReply_eq_ok_iff {s : State} : stepReply s = .ok ↔ ¬ HaltedOnError s := by
  cases hdrv : s.drv <;> simp [stepReply, State.errorRecord, HaltedOnError, hdrv]

theorem transact_step_reply {s t : State} {r : Reply} (h : transact .step s = .next (t, r)) : r = stepReply t := by
  cases h.symm.trans (transact_of_step (transact_step h))
  rfl

/-- A step that leaves the driver not halted replies Ok. -/
theorem transact_step_ok {s t : State} (h : step s = .next t) (ht : ¬ HaltedOnError t) :
    transact .step s = .next (t, .ok) := by
  rw [transact_of_step h, stepReply_eq_ok_iff.2 ht]

/-- Settles O11: the reply is read off the driver. -/
theorem stepRepliesErrExactlyWhenHalted : Obligations.StepRepliesErrExactlyWhenHalted := by
  intro s t r h
  obtain rfl := transact_step_reply h
  exact ⟨fun _ => stepReply_eq_err_iff, stepReply_eq_ok_iff⟩

/-- Settles O7: the driver is not halted after either way of the key wait. -/
theorem keyWaitStepsUntilAKeyIsPending : Obligations.KeyWaitStepsUntilAKeyIsPending := by
  constructor
  · intro s x hdrv hpending
    refine transact_step_ok ?_ (by simp [HaltedOnError, hdrv])
    rw [step_of_waiting hdrv, keyWaitStep_none x hpending]
  · intro s x k hdrv hpending
    obtain ⟨hv, hpc, hlatch, hready⟩ := keyWaitStep_completes x hpending
    exact ⟨_, transact_step_ok (step_of_waiting hdrv) (by simp [HaltedOnError, hready]), hv, hpc, hlatch, hready,
      onlyChanges_keyWaitStep x s⟩

end Sys2Proof.Machine
end

section
/-! The driver (R100): what every instruction and every transaction makes of it. -/

namespace Sys2Proof.Machine

/-! ## The driver after an instruction: halted exactly when its failure condition holds -/

theorem not_readable_iff (a : Nat) : readable a = false ↔ 0xFFF < a := by
  rw [← Bool.not_eq_true, readable_iff]
  omega

theorem not_writable_iff (a : Nat) : writable protectLowMemory a = false ↔ 0xFFF < a ∨ a < 0x200 := by
  simp only [← Bool.not_eq_true, writable_iff, protectLowMemory, forall_const]
  omega

/-- The rows of R100's table for an instruction executed in Ready. -/
inductive DriverAfter (i : Instr) (s t : State) : Prop
  /-- Its failure condition holds, and it halts. -/
  | halts (failure : FailureCondition i s) (halted : HaltedOnError t)
  /-- FX0A waits. -/
  | waits (x : Nibble) (instr : i = .ldK x) (drv : t.drv = .waitingForKey x)
  /-- Any other leaves the driver as it is. -/
  | stays (success : ¬ FailureCondition i s) (other : ∀ x, i ≠ .ldK x) (drv : t.drv = s.drv)

/-- An instruction that fails exactly at a bad address does not fail when every address passes its check. -/
theorem not_failureCondition_of_check {i : Instr} {s : State} {ok : Nat → Bool} {eaOf : Nat → Nat} {n : Nat}
    (hfail : FailureCondition i s ↔ ∃ k, k < n ∧ ok (eaOf k) = false) (hok : ∀ k, k < n → ok (eaOf k) = true) :
    ¬ FailureCondition i s := by
  rw [hfail]
  rintro ⟨k, hk, hbad⟩
  exact Bool.false_ne_true (hbad.symm.trans (hok k hk))

theorem DriverAfter.storeAtIndex {i : Instr} {s : State} {protect : Bool} {eaOf : Nat → Nat} {n : Nat}
    (hfail : FailureCondition i s ↔ ∃ k, k < n ∧ writable protect (eaOf k) = false) (hother : ∀ x, i ≠ .ldK x)
    (f : Nat → Byte) (i' : Word) : DriverAfter i s (storeAtIndex protect i eaOf f n i' s) := by
  obtain ⟨k, hk, hbad, -, h⟩ | ⟨hok, h⟩ := storeAtIndex_cases protect i eaOf f n i' s <;> rw [h]
  · exact .halts (hfail.2 ⟨k, hk, hbad⟩) ⟨_, rfl⟩
  · exact .stays (not_failureCondition_of_check hfail hok) hother rfl

theorem DriverAfter.loadAtIndex {i : Instr} {s : State} {eaOf : Nat → Nat} {n : Nat}
    (hfail : FailureCondition i s ↔ ∃ k, k < n ∧ readable (eaOf k) = false) (hother : ∀ x, i ≠ .ldK x) (i' : Word) :
    DriverAfter i s (loadAtIndex i eaOf n i' s) := by
  obtain ⟨k, hk, hbad, -, h⟩ | ⟨hok, h⟩ := loadAtIndex_cases i eaOf n i' s <;> rw [h]
  · exact .halts (hfail.2 ⟨k, hk, hbad⟩) ⟨_, rfl⟩
  · exact .stays (not_failureCondition_of_check hfail hok) hother (by simp)

theorem DriverAfter.draw (wraps : Bool) (x y n : Nibble) (s : State) :
    DriverAfter (.drw x y n) s (draw wraps (ea s) x y n s) := by
  have hfail : FailureCondition (.drw x y n) s ↔ ∃ k, k < n.toNat ∧ readable (ea s k) = false := by
    simp only [FailureCondition, not_readable_iff]
  obtain ⟨a, ha, h⟩ | ⟨hok, h⟩ := draw_cases wraps (ea s) x y n s <;> rw [h]
  · obtain ⟨k, hk, -, hbad, -⟩ := firstBad_some ha
    exact .halts (hfail.2 ⟨k, hk, hbad⟩) ⟨_, rfl⟩
  · exact .stays (not_failureCondition_of_check hfail (firstBad_none.1 hok)) nofun rfl

/-- R100, R161-R164, R193-R195, R212, R213: what every instruction makes of the driver. -/
theorem exec_driverAfter (i : Instr) (s : State) : Completes i s (DriverAfter i s) := by
  cases i with
  | cls | jp | seImm | sneImm | seReg | ldImm | addImm | ldReg | or | and | xor | addReg | sub | shr | subn | shl | sneReg
  | ldI | jpOff | rnd | skp | sknp | ldFromDt | ldDt | ldSt | addI | ldF => exact ⟨_, rfl, .stays id nofun rfl⟩
  | ldK x => exact ⟨_, rfl, .waits x rfl rfl⟩
  | sys => exact ⟨_, rfl, .halts trivial ⟨_, rfl⟩⟩
  | ret =>
    cases hs : s.stack with
    | nil => exact ⟨_, exec_ret_empty hs, .halts hs ⟨_, rfl⟩⟩
    | cons a rest => exact ⟨_, exec_ret_pop hs, .stays (by simp [FailureCondition, hs]) nofun rfl⟩
  | call nnn =>
    by_cases hroom : s.stack.length < 16
    · exact ⟨_, exec_call_room nnn hroom, .stays (Nat.not_le.2 hroom) nofun rfl⟩
    · exact ⟨_, exec_call_full nnn hroom, .halts (Nat.not_lt.1 hroom) ⟨_, rfl⟩⟩
  | drw => exact ⟨_, rfl, .draw _ _ _ _ _⟩
  | ldB => exact ⟨_, rfl, .storeAtIndex (by simp only [FailureCondition, not_writable_iff]) (by nofun) _ _⟩
  | ldStore =>
    exact ⟨_, rfl, .storeAtIndex (by simp only [FailureCondition, not_writable_iff, registerCount, Nat.lt_succ_iff])
      (by nofun) _ _⟩
  | ldLoad =>
    exact ⟨_, rfl, .loadAtIndex (by simp only [FailureCondition, not_readable_iff, registerCount, Nat.lt_succ_iff])
      (by nofun) _⟩

/-- The same rows, each as what its condition leads to from Ready. -/
theorem DriverAfter.rows {i : Instr} {s t : State} (h : DriverAfter i s t) (hdrv : s.drv = .ready) :
    (FailureCondition i s → HaltedOnError t) ∧ (∀ x, i = .ldK x → t.drv = .waitingForKey x) ∧
      (¬ FailureCondition i s → (∀ x, i ≠ .ldK x) → t.drv = .ready) := by
  cases h with
  | halts failure halted =>
    exact ⟨fun _ => halted, fun x hi => by subst hi; exact failure.elim, fun hno => absurd failure hno⟩
  | waits x hi ht =>
    subst hi
    exact ⟨False.elim, fun y hy => by cases hy; exact ht, fun _ hother => absurd rfl (hother x)⟩
  | stays success hother ht =>
    exact ⟨fun hf => absurd hf success, fun x hx => absurd hx (hother x), fun _ _ => ht.trans hdrv⟩

/-! ## The driver after a transaction -/

/-- What a load can leave: an accepted one a Ready state that has the invariant, a refused one the state it found (R112). -/
theorem load_next {rom : List Byte} {s t : State} {r : Reply} (h : transact (.load rom) s = .next (t, r)) :
    (rom.length ≤ 3584 ∧ Inv t ∧ t.drv = .ready) ∨ (¬ rom.length ≤ 3584 ∧ t = s) := by
  obtain ⟨hlen, hload, ht⟩ | ⟨hlen, -, ht⟩ := transact_load rom s <;> cases ht.symm.trans h
  · exact .inl ⟨hlen, inv_reset_with _ _ _ (wf_loadRom hload), rfl⟩
  · exact .inr ⟨Nat.not_le.2 hlen, rfl⟩

/-- Settles O8: a step in Halted is no move, and of the other transactions only an accepted load moves the driver. -/
theorem haltedLeavesOnlyByLoad : Obligations.HaltedLeavesOnlyByLoad := by
  constructor
  · intro s e hdrv
    rw [transact_of_step (step_of_halted hdrv), stepReply_eq_err_iff.2 hdrv]
  · intro s t e tr r hdrv h
    cases tr with
    | load rom =>
      obtain ⟨hlen, -, ht⟩ | ⟨-, rfl⟩ := load_next h
      · exact .inr ⟨rom, rfl, hlen, ht⟩
      · exact .inl hdrv
    | step =>
      cases (step_of_halted hdrv).symm.trans (transact_step h)
      exact .inl hdrv
    | tickTimers | setKeyState | readFrame | querySound => cases h; exact .inl hdrv

/-- Settles O10, row by row of R100's table. -/
theorem driverTransitionsAreTheTable : Obligations.DriverTransitionsAreTheTable := by
  intro s t tr r h
  cases tr with
  | load rom =>
    obtain ⟨hlen, -, ht⟩ | ⟨hlen, rfl⟩ := load_next h
    · simpa only [if_pos hlen] using ht
    · simp only [if_neg hlen]
  | tickTimers | setKeyState | readFrame | querySound => cases h; rfl
  | step =>
    have hstep := transact_step h
    cases hdrv : s.drv with
    | halted e =>
      cases (step_of_halted hdrv).symm.trans hstep
      exact hdrv
    | waitingForKey x =>
      cases (step_of_waiting hdrv).symm.trans hstep
      cases hp : s.pending with
      | none => simpa only [keyWaitStep_none x hp, if_true] using hdrv
      | some k =>
        obtain ⟨-, -, -, hready⟩ := keyWaitStep_completes x hp
        simpa only [reduceCtorEq, if_false] using hready
    | ready =>
      refine ⟨fun a hfetch => ?_, fun w e hfetch hdec => ?_, fun w i hfetch hdec => ?_⟩
      · cases (step_of_fetch_error hdrv hfetch).symm.trans hstep
        exact ⟨_, rfl⟩
      · cases (step_of_decode_error hdrv hfetch hdec).symm.trans hstep
        exact ⟨_, rfl⟩
      · rw [step_of_decode_ok hdrv hfetch hdec] at hstep
        exact ((exec_driverAfter i s).post hstep).rows hdrv

end Sys2Proof.Machine
end

section
/-! The timers, the keys and the latch under the host's transactions and under steps (R106, R109-R116). -/

namespace Sys2Proof.Machine

/-! ## The timers -/

theorem delay_mem_writtenParts {i : Instr} (h : .delay ∈ writtenParts i) : ∃ x, i = .ldDt x := by
  cases i <;> simp [writtenParts] at h ⊢

theorem sound_mem_writtenParts {i : Instr} (h : .sound ∈ writtenParts i) : ∃ x, i = .ldSt x := by
  cases i <;> simp [writtenParts] at h ⊢

/-- R109: a step moves a timer only by the instruction that names it. -/
theorem step_timers {s t : State} (h : step s = .next t) :
    (t.dt = s.dt ∨ ∃ w x, fetchWord s = .ok w ∧ decode w = .ok (.ldDt x)) ∧
    (t.st = s.st ∨ ∃ w x, fetchWord s = .ok w ∧ decode w = .ok (.ldSt x)) := by
  obtain ⟨e, -, hs⟩ | ⟨x, -, hs⟩ | ⟨-, a, -, hs⟩ | ⟨-, w, -, -, hs⟩ | ⟨-, w, i, hfetch, hdec, hs⟩ := step_cases s <;>
    rw [hs] at h
  · cases h; exact ⟨.inl rfl, .inl rfl⟩
  · cases h
    obtain ⟨-, -, -, -, hdt, hst, -⟩ := onlyChanges_keyWaitStep x s
    exact ⟨.inl (hdt (by simp)), .inl (hst (by simp))⟩
  · cases h; exact ⟨.inl rfl, .inl rfl⟩
  · cases h; exact ⟨.inl rfl, .inl rfl⟩
  · obtain ⟨-, -, -, -, hdt, hst, -⟩ := (exec_onlyChanges i s).post h
    refine ⟨Decidable.or_iff_not_imp_left.2 fun hne => ?_, Decidable.or_iff_not_imp_left.2 fun hne => ?_⟩
    · obtain ⟨x, rfl⟩ := delay_mem_writtenParts (Decidable.not_imp_comm.1 hdt hne)
      exact ⟨w, x, hfetch, hdec⟩
    · obtain ⟨x, rfl⟩ := sound_mem_writtenParts (Decidable.not_imp_comm.1 hst hne)
      exact ⟨w, x, hfetch, hdec⟩

/-- Settles O14, by the six transactions; only a step asks for more than its name. -/
theorem timersMoveOnlyByTickOrTimerWrite : Obligations.TimersMoveOnlyByTickOrTimerWrite := by
  intro s t tr r h
  cases tr with
  | load rom => exact ⟨fun _ => .inr (.inl ⟨rom, rfl⟩), fun _ => .inr (.inl ⟨rom, rfl⟩)⟩
  | tickTimers => exact ⟨fun _ => .inl rfl, fun _ => .inl rfl⟩
  | step =>
    obtain ⟨hdt, hst⟩ := step_timers (transact_step h)
    exact ⟨fun hne => .inr (.inr ⟨rfl, hdt.resolve_left hne⟩), fun hne => .inr (.inr ⟨rfl, hst.resolve_left hne⟩)⟩
  | setKeyState | readFrame | querySound => cases h; exact ⟨absurd rfl, absurd rfl⟩

/-- R110: one less, floored at zero. -/
theorem tickDown_toNat (b : Byte) : (tickDown b).toNat = b.toNat - 1 := by
  unfold tickDown
  split
  · next h => rw [h]; rfl
  · next h => bv_omega

/-- Settles O15: the two timers are written and no other field. -/
theorem tickDecrementsBothTimersFlooredAtZero : Obligations.TickDecrementsBothTimersFlooredAtZero :=
  fun s => ⟨tickTimers s, rfl, tickDown_toNat s.dt, tickDown_toNat s.st, rfl,
    (onlyChanges_refl [.delay, .sound] [] s).setDt (by simp) (tickDown s.dt) |>.setSt (by simp) (tickDown s.st)⟩

theorem tickTimes_st_toNat (n : Nat) (s : State) : (tickTimes n s).st.toNat = s.st.toNat - n := by
  induction n generalizing s with
  | zero => rfl
  | succ n ih => rw [tickTimes, ih, tickTimers_st, tickDown_toNat, Nat.sub_sub, Nat.add_comm]

theorem soundOn_eq_decide_ne (s : State) : soundOn s = decide (s.st ≠ 0#8) := by
  rw [soundOn, Bool.eq_iff_iff, bne_iff_ne, decide_eq_true_eq]

theorem soundOn_eq_decide_pos (s : State) : soundOn s = decide (0 < s.st.toNat) := by
  rw [soundOn_eq_decide_ne, decide_eq_decide]
  bv_omega

/-- Settles O16: after n ticks ST holds what is left of the value set. -/
theorem soundLastsAsManyTicksAsFx18Sets : Obligations.SoundLastsAsManyTicksAsFx18Sets := by
  refine ⟨fun s t x n h => ?_, fun s => ?_, fun _ => rfl⟩
  · cases (exec_ldSt x s).symm.trans h
    simp only [transact, soundOn_eq_decide_pos, tickTimes_st_toNat, advance_st, setSt_st, Nat.sub_pos_iff_lt]
  · rw [transact, soundOn_eq_decide_ne]

/-! ## The keys and the latch -/

/-- The transition that R114 latches: the driver waits with nothing pending, and key `k` goes from released to pressed. -/
def NewPress (k : Nibble) (p : Bool) (s : State) : Prop :=
  (∃ x, s.drv = .waitingForKey x) ∧ s.pending = none ∧ p = true ∧ keyPressed s k = false

theorem latchKey_of_newPress {k : Nibble} {p : Bool} {s : State} (h : NewPress k p s) : latchKey k p s = some k := by
  obtain ⟨⟨x, hdrv⟩, hpending, rfl, hkey⟩ := h
  simp [latchKey, hdrv, hpending, hkey]

theorem latchKey_of_not_newPress {k : Nibble} {p : Bool} {s : State} (h : ¬ NewPress k p s) : latchKey k p s = s.pending := by
  unfold latchKey
  split
  · next x hdrv hpending =>
    rw [hpending, if_neg]
    intro hpress
    rw [Bool.and_eq_true, Bool.not_eq_true'] at hpress
    exact h ⟨⟨x, hdrv⟩, hpending, hpress⟩
  · next hpending => rw [hpending]
  · rfl
  · rfl

/-- Settles O20, by whether the transition is a new press. -/
theorem setKeyStateLatchesTheFirstNewPress : Obligations.SetKeyStateLatchesTheFirstNewPress := by
  intro s k p
  refine ⟨setKeyState k p s, rfl, ?_, fun j hj => ?_, latchKey_of_newPress, latchKey_of_not_newPress, rfl, ?_⟩
  · rw [keyPressed_setKeyState, if_pos rfl]
  · rw [keyPressed_setKeyState, if_neg hj]
  · apply onlyChanges_of_fields <;> simp

/-- Setting a key to what it is changes nothing (R113, R114). -/
theorem setKeyState_of_keyPressed {k : Nibble} {p : Bool} {s : State} (h : keyPressed s k = p) : setKeyState k p s = s := by
  have hlatch : latchKey k p s = s.pending := by
    refine latchKey_of_not_newPress ?_
    rintro ⟨-, -, hp, hkey⟩
    exact Bool.false_ne_true (hkey.symm.trans (h.trans hp))
  have hkeys : s.keys.set k.toNat p k.isLt = s.keys := by
    subst h
    exact Vector.set_getElem_self k.isLt
  rw [setKeyState, hlatch, hkeys]

theorem stepTimes_of_step_self {s : State} (h : step s = .next s) (n : Nat) : stepTimes n s = .next s := by
  induction n with
  | zero => rfl
  | succ n ih => simp only [stepTimes, h, ih]

/-- Settles O21: the first step enters the wait, a wait with nothing pending is no move, and what the key does to the latch
decides the step after it. -/
theorem keyWaitEndsAtTheStepAfterANewPress : Obligations.KeyWaitEndsAtTheStepAfterANewPress := by
  intro s w x k n hdrv hfetch hdec
  have hwait : step (setDriver (.waitingForKey x) none s) = .next (setDriver (.waitingForKey x) none s) := by
    rw [step_of_waiting (x := x) rfl, keyWaitStep_none x rfl]
  refine ⟨setDriver (.waitingForKey x) none s, ?_, rfl, rfl, fun hkey => ?_, fun hkey => ?_⟩
  · simp only [stepTimes, step_of_decode_ok hdrv hfetch hdec, exec_ldK, stepTimes_of_step_self hwait]
  · have hlatch : (setKeyState k true (setDriver (.waitingForKey x) none s)).pending = some k := by
      rw [setKeyState_pending]
      exact latchKey_of_newPress ⟨⟨x, rfl⟩, rfl, rfl, hkey⟩
    obtain ⟨hv, hpc, -, hready⟩ := keyWaitStep_completes x hlatch
    exact ⟨_, step_of_waiting rfl, hv, hpc, hready⟩
  · rw [setKeyState_of_keyPressed (s := setDriver (.waitingForKey x) none s) hkey, hwait]

end Sys2Proof.Machine
end

section
/-! The runs of the host's schedules (R120), and the invariant along them. -/

namespace Sys2Proof.Machine

/-! ## Every transaction keeps the invariant -/

theorem Inv.tickTimers {s : State} (h : Inv s) : Inv (tickTimers s) where
  memory := h.memory
  depth := h.depth
  returns := h.returns
  pcBound := h.pcBound
  latch := h.latch
  waiting := h.waiting
  record := h.record

/-- A new press is latched during a wait only (R37, R114). -/
theorem Inv.setKeyState {s : State} (h : Inv s) (k : Nibble) (p : Bool) : Inv (setKeyState k p s) where
  memory := h.memory
  depth := h.depth
  returns := h.returns
  pcBound := h.pcBound
  latch hne := by
    by_cases hnew : NewPress k p s
    · exact hnew.1
    · exact h.latch (latchKey_of_not_newPress hnew ▸ hne)
  waiting := h.waiting
  record := h.record

/-- Settles O24, by the six transactions. -/
theorem everyTransactionKeepsTheInvariant : Obligations.EveryTransactionKeepsTheInvariant := by
  intro s t tr r hs h
  cases tr with
  | load rom =>
    obtain ⟨-, ht, -⟩ | ⟨-, rfl⟩ := load_next h
    · exact ht
    · exact hs
  | step => exact everyStepKeepsTheInvariant s t hs (transact_step h)
  | tickTimers => cases h; exact hs.tickTimers
  | setKeyState k p => cases h; exact hs.setKeyState k p
  | readFrame | querySound => cases h; exact hs

/-! ## Runs (R120) -/

/-- Every transaction answers, in every state. -/
theorem transact_total (tr : Transaction) (s : State) : ∃ t r, transact tr s = .next (t, r) := by
  cases tr with
  | load rom => obtain ⟨-, -, h⟩ | ⟨-, -, h⟩ := transact_load rom s <;> exact ⟨_, _, h⟩
  | step =>
    obtain ⟨t, h⟩ := everyStepAnswersANextState s
    exact ⟨t, _, transact_of_step h⟩
  | tickTimers | setKeyState | readFrame | querySound => exact ⟨_, _, rfl⟩

theorem runSchedule_total (schedule : List Transaction) (s : State) :
    ∃ t rs, runSchedule schedule s = .next (t, rs) ∧ rs.length = schedule.length := by
  induction schedule generalizing s with
  | nil => exact ⟨s, [], rfl, rfl⟩
  | cons tr rest ih =>
    obtain ⟨s', r, htr⟩ := transact_total tr s
    obtain ⟨t, rs, hrun, hlen⟩ := ih s'
    exact ⟨t, r :: rs, runSchedule_cons_next.2 ⟨s', r, rs, htr, hrun, rfl⟩, congrArg (· + 1) hlen⟩

theorem runSchedule_append {first second : List Transaction} {s t u : State} {rs qs : List Reply}
    (hfirst : runSchedule first s = .next (t, rs)) (hsecond : runSchedule second t = .next (u, qs)) :
    runSchedule (first ++ second) s = .next (u, rs ++ qs) := by
  induction first generalizing s rs with
  | nil => cases hfirst; exact hsecond
  | cons tr rest ih =>
    obtain ⟨s', r, rs', htr, hrest, rfl⟩ := runSchedule_cons_next.1 hfirst
    exact runSchedule_cons_next.2 ⟨s', r, rs' ++ qs, htr, ih hrest, rfl⟩

/-- Settles O59, by induction on the schedule. -/
theorem everyInterleavingIsARun : Obligations.EveryInterleavingIsARun :=
  ⟨runSchedule_total, fun _ _ t r h => runSchedule_cons_next.2 ⟨t, r, [], h, rfl, rfl⟩,
    fun _ _ _ _ _ _ _ => runSchedule_append⟩

theorem Inv.runSchedule {schedule : List Transaction} {s t : State} {rs : List Reply} (hs : Inv s)
    (h : runSchedule schedule s = .next (t, rs)) : Inv t := by
  induction schedule generalizing s rs with
  | nil => cases h; exact hs
  | cons tr rest ih =>
    obtain ⟨s', r, qs, htr, hrest, -⟩ := runSchedule_cons_next.1 h
    exact ih (everyTransactionKeepsTheInvariant s s' tr r hs htr) hrest

/-- Settles O60: the state right after the accepted load has the invariant whatever came before. -/
theorem everyRunKeepsTheInvariant : Obligations.EveryRunKeepsTheInvariant := by
  refine ⟨fun schedule s t rs hs h => hs.runSchedule h, fun rom schedule s t rs hlen h => ?_⟩
  obtain ⟨s', r, qs, hload, hrest, -⟩ := runSchedule_cons_next.1 h
  obtain ⟨-, hs', -⟩ | ⟨hlong, -⟩ := load_next hload
  · exact hs'.runSchedule hrest
  · exact absurd hlen hlong

end Sys2Proof.Machine
end

section
/-! Register loads, arithmetic, logic and shifts (R130-R142): what an instruction that writes `V[X]` leaves, what one that
writes `V[X]` and then the flag leaves, and the flags as arithmetic. -/

namespace Sys2Proof.Machine

/-! ## The two shapes of a register result -/

/-- What an instruction that writes `b` to `V[x]` and advances leaves: the register, pc and the frame. -/
theorem completes_of_setV {i : Instr} {s : State} {x : Nibble} {b : Byte} (h : exec i s = .next (advance (setV s x b))) :
    Completes i s fun t => getV t x = b ∧ t.pc = s.pc + 2#16 ∧ OnlyChanges [] [x] s t :=
  ⟨_, h, getV_setV_same s x b, rfl, ((onlyChanges_refl [] [x] s).setV List.mem_cons_self b).advance⟩

/-- R130: the flag is written last, so it stands in VF for every `x`, also for `x = F`. -/
theorem getV_setResultAndFlag_vf (x : Nibble) (r : Byte) (c : Bool) (s : State) :
    getV (setResultAndFlag x r c s) vf = flagByte c := by
  rw [getV_setResultAndFlag, if_pos rfl]

theorem getV_setResultAndFlag_result {x : Nibble} (hx : x ≠ vf) (r : Byte) (c : Bool) (s : State) :
    getV (setResultAndFlag x r c s) x = r := by
  rw [getV_setResultAndFlag, if_neg hx, if_pos rfl]

/-- What an instruction that writes `r` to `V[x]`, then `c` to VF, and advances leaves. -/
theorem completes_of_setResultAndFlag {i : Instr} {s : State} {x : Nibble} {r : Byte} {c : Bool}
    (h : exec i s = .next (advance (setResultAndFlag x r c s))) :
    Completes i s fun t =>
      getV t vf = flagByte c ∧ (x ≠ vf → getV t x = r) ∧ t.pc = s.pc + 2#16 ∧ OnlyChanges [] [x, vf] s t :=
  ⟨_, h, getV_setResultAndFlag_vf x r c s, fun hx => getV_setResultAndFlag_result hx r c s, rfl,
    ((onlyChanges_refl [] [x, vf] s).setResultAndFlag (by simp) (by simp) r c).advance⟩

/-! ## The flags as arithmetic -/

theorem flagByte_carryOut (a b : Byte) : flagByte (carryOut a b) = if 256 ≤ a.toNat + b.toNat then 1#8 else 0#8 := by
  simp only [flagByte, carryOut, decide_eq_true_eq]

theorem flagByte_eq_ofNat_toNat (c : Bool) : flagByte c = BitVec.ofNat 8 c.toNat := by
  cases c <;> rfl

/-- Bit 0 is the remainder of the halving (R140). -/
theorem flagByte_shiftedOutRight (src : Byte) : flagByte (shiftedOutRight src) = BitVec.ofNat 8 (src.toNat % 2) := by
  rw [flagByte_eq_ofNat_toNat, shiftedOutRight, BitVec.getLsbD, Nat.toNat_testBit, Nat.pow_zero, Nat.div_one]

/-- Bit 7 is the quotient by 128, since a byte is below 256 (R142). -/
theorem flagByte_shiftedOutLeft (src : Byte) : flagByte (shiftedOutLeft src) = BitVec.ofNat 8 (src.toNat / 128) := by
  have hlt : src.toNat / 128 < 2 := by omega
  simp only [flagByte_eq_ofNat_toNat, shiftedOutLeft, BitVec.getLsbD, Nat.toNat_testBit, Nat.reducePow, Nat.mod_eq_of_lt hlt]

theorem toNat_shiftRight_one (src : Byte) : (src >>> 1).toNat = src.toNat / 2 := by
  rw [BitVec.toNat_ushiftRight, Nat.shiftRight_eq_div_pow, Nat.pow_one]

theorem toNat_shiftLeft_one (src : Byte) : (src <<< 1).toNat = src.toNat * 2 % 256 := by
  rw [BitVec.toNat_shiftLeft, Nat.shiftLeft_eq, Nat.pow_one]

/-! ## The instructions -/

/-- Settles O39: each of the five writes one value to `V[X]` and advances. -/
theorem loadsAndLogicWriteOnlyVx : Obligations.LoadsAndLogicWriteOnlyVx := fun _ _ _ _ =>
  ⟨completes_of_setV rfl, completes_of_setV rfl, completes_of_setV rfl, completes_of_setV rfl, completes_of_setV rfl⟩

/-- Settles O40: by default 7XKK writes `V[X]` alone, and under the parameter the result, then the carry. -/
theorem addImmediateWrapsWithoutFlag : Obligations.AddImmediateWrapsWithoutFlag := by
  intro x kk s
  refine ⟨?_, ?_, fun hx => ?_⟩
  · obtain ⟨t, ht, hsum, hrest⟩ := completes_of_setV (i := .addImm x kk) (s := s) rfl
    exact ⟨t, ht, by rw [hsum, BitVec.toNat_add], hrest⟩
  · exact (getV_setResultAndFlag_vf x _ _ s).trans (flagByte_carryOut _ kk)
  · exact (congrArg BitVec.toNat (getV_setResultAndFlag_result hx _ _ s)).trans (BitVec.toNat_add _ kk)

/-- Settles O41: the sum, then the carry. -/
theorem addRegisterSetsCarry : Obligations.AddRegisterSetsCarry := by
  intro x y s
  obtain ⟨t, ht, hflag, hsum, hrest⟩ := completes_of_setResultAndFlag (i := .addReg x y) (s := s) rfl
  exact ⟨t, ht, hflag.trans (flagByte_carryOut _ _), fun hx => by rw [hsum hx, BitVec.toNat_add], hrest⟩

/-- Settles O43: the result of the quirk's operand, then the bit shifted out, for both values of the quirk. -/
theorem shiftsMoveTheQuirkOperandByOne : Obligations.ShiftsMoveTheQuirkOperandByOne := by
  intro x y s
  constructor
  · obtain ⟨t, ht, hflag, hval, hrest⟩ := completes_of_setResultAndFlag (i := .shr x y) (s := s) rfl
    exact ⟨t, ht, hflag.trans (flagByte_shiftedOutRight _), fun hx => by rw [hval hx, toNat_shiftRight_one, shiftSource], hrest⟩
  · obtain ⟨t, ht, hflag, hval, hrest⟩ := completes_of_setResultAndFlag (i := .shl x y) (s := s) rfl
    exact ⟨t, ht, hflag.trans (flagByte_shiftedOutLeft _), fun hx => by rw [hval hx, toNat_shiftLeft_one, shiftSource], hrest⟩

end Sys2Proof.Machine
end

section
/-! Control transfer and skips (R161-R169): what an instruction that jumps, one that jumps with a new stack, and one that
skips leave, and the targets as arithmetic. -/

namespace Sys2Proof.Machine

/-! ## The three shapes of a control transfer -/

/-- What an instruction that jumps to `a` leaves: pc and the frame. -/
theorem completes_of_jumpTo {i : Instr} {s : State} {a : Word} (h : exec i s = .next (jumpTo a s)) :
    Completes i s fun t => t.pc = a ∧ OnlyChanges [] [] s t :=
  ⟨_, h, jumpTo_pc a s, (onlyChanges_refl [] [] s).jumpTo a⟩

/-- What an instruction that makes `l` the stack and jumps to `a` leaves: pc, the stack and the frame. -/
theorem completes_of_jumpTo_setStack {i : Instr} {s : State} {a : Word} {l : List Word}
    (h : exec i s = .next (jumpTo a (setStack l s))) :
    Completes i s fun t => t.pc = a ∧ t.stack = l ∧ OnlyChanges [.stack] [] s t :=
  ⟨_, h, jumpTo_pc a _, setStack_stack l s, ((onlyChanges_refl [.stack] [] s).setStack List.mem_cons_self l).jumpTo a⟩

/-- What a skip whose test `c` decides `p` leaves: pc and the frame. -/
theorem completes_of_skipIf {i : Instr} {s : State} {c : Bool} {p : Prop} [Decidable p] (h : exec i s = .next (skipIf c s))
    (hc : c = true ↔ p) :
    Completes i s fun t => t.pc = (if p then s.pc + 4#16 else s.pc + 2#16) ∧ OnlyChanges [] [] s t :=
  ⟨_, h, by simp only [skipIf_pc, hc], (onlyChanges_refl [] [] s).skipIf c⟩

/-! ## The targets as arithmetic -/

theorem zext16_toNat (nnn : Addr12) : (zext16 nnn).toNat = nnn.toNat :=
  BitVec.toNat_setWidth_of_le (by decide)

/-- R165: the sum stays far below 2^16, so nothing wraps. -/
theorem zext16_add_byte_toNat (nnn : Addr12) (b : Byte) : (zext16 nnn + b.setWidth 16).toNat = nnn.toNat + b.toNat := by
  have hbyte : (b.setWidth 16).toNat = b.toNat := BitVec.toNat_setWidth_of_le (by decide)
  rw [BitVec.toNat_add, zext16_toNat, hbyte]
  omega

/-- R165: under the quirk the register is the one the top digit of NNN names. -/
theorem offsetRegister_eq (usesVx : Bool) (nnn : Addr12) :
    offsetRegister usesVx nnn = if usesVx then BitVec.ofNat 4 (nnn.toNat / 256) else 0x0#4 := by
  have hdigit : nnn.extractLsb' 8 4 = BitVec.ofNat 4 (nnn.toNat / 256) :=
    congrArg (BitVec.ofNat 4) (Nat.shiftRight_eq_div_pow nnn.toNat 8)
  rw [offsetRegister, hdigit]

/-! ## The instructions -/

/-- Settles O31: the entry is all SYS does, and its word has a zero first digit. -/
theorem sysRaisesUnknownOpcode : Obligations.SysRaisesUnknownOpcode := fun nnn s _ =>
  ⟨exec_sys nnn s, (encodeNnn_toNat 0x0#4 nnn).trans (by simp)⟩

/-- Settles O32, by whether the stack holds an address. -/
theorem retPopsTheNewestAddress : Obligations.RetPopsTheNewestAddress :=
  ⟨fun _ _ _ hstack => completes_of_jumpTo_setStack (exec_ret_pop hstack), fun _ hstack => exec_ret_empty hstack⟩

/-- Settles O33: the target is NNN zero-extended. -/
theorem jumpSetsPc : Obligations.JumpSetsPc := by
  intro nnn s
  obtain ⟨t, ht, hpc, hframe⟩ := completes_of_jumpTo (exec_jp nnn s)
  exact ⟨t, ht, by rw [hpc, zext16_toNat], hframe⟩

/-- Settles O34, by whether the stack has room. -/
theorem callPushesTheNextAddress : Obligations.CallPushesTheNextAddress := by
  refine ⟨fun nnn s hroom => ?_, fun nnn s hfull => exec_call_full nnn (by omega)⟩
  obtain ⟨t, ht, hpc, hrest⟩ := completes_of_jumpTo_setStack (exec_call_room nnn hroom)
  exact ⟨t, ht, by rw [hpc, zext16_toNat], hrest⟩

/-- Settles O36: what the call pushed is what the return pops. -/
theorem returnUndoesCall : Obligations.ReturnUndoesCall := by
  intro nnn s t u hroom hcall hu
  obtain ⟨-, hpushed, -⟩ := (callPushesTheNextAddress.1 nnn s hroom).post hcall
  obtain ⟨v, hv, hpc, hstack, -⟩ := retPopsTheNewestAddress.1 u _ _ (hu.trans hpushed)
  exact ⟨v, hv, hpc, hstack⟩

/-- Settles O37: the target is a sum that cannot wrap, of the register the quirk selects. -/
theorem jumpOffsetAddsTheQuirkRegister : Obligations.JumpOffsetAddsTheQuirkRegister := by
  intro nnn s
  obtain ⟨t, ht, hpc, hframe⟩ := completes_of_jumpTo (i := .jpOff nnn) (s := s) rfl
  refine ⟨t, ht, ?_, hframe⟩
  rw [hpc, zext16_add_byte_toNat, offsetRegister_eq, apply_ite (getV s)]

/-- Settles O38: each of the four is a skip on the test it names. -/
theorem skipsMovePcByFourOrTwo : Obligations.SkipsMovePcByFourOrTwo := fun _ _ _ _ =>
  ⟨completes_of_skipIf rfl beq_iff_eq, completes_of_skipIf rfl bne_iff_ne, completes_of_skipIf rfl beq_iff_eq,
    completes_of_skipIf rfl bne_iff_ne⟩

end Sys2Proof.Machine
end

section
/-! Index register, font, BCD and register dump and load (R190-R196): what an instruction that sets I, one that stores at I
and one that loads at I leave, and where the accesses at I fail. -/

namespace Sys2Proof.Machine

/-! ## An instruction that sets I -/

/-- What an instruction that makes `w` the index and advances leaves: I, pc and the frame. -/
theorem completes_of_setI {i : Instr} {s : State} {w : Word} (h : exec i s = .next (advance (setI w s))) :
    Completes i s fun t => t.i = w ∧ t.pc = s.pc + 2#16 ∧ OnlyChanges [.index] [] s t :=
  ⟨_, h, setI_i w s, rfl, ((onlyChanges_refl [.index] [] s).setI (absurd List.mem_cons_self)).advance⟩

/-- R191: the sum is taken modulo 2^16, without a mask. -/
theorem add_byte_toNat (w : Word) (b : Byte) : (w + b.setWidth 16).toNat = (w.toNat + b.toNat) % 65536 := by
  have hbyte : (b.setWidth 16).toNat = b.toNat := BitVec.toNat_setWidth_of_le (by decide)
  rw [BitVec.toNat_add, hbyte]

/-- R192: the font ends far below 2^16, so nothing wraps. -/
theorem glyphAddress_toNat (d : Nibble) : (glyphAddress d).toNat = 0x050 + 5 * d.toNat :=
  Nat.mod_eq_of_lt (by simp only [fontBase, glyphSize]; omega)

/-- R196: I after `n + 1` registers moved. -/
theorem indexAfter_toNat (increments : Bool) (i : Word) (n : Nat) :
    (indexAfter increments i (n + 1)).toNat = if increments then (i.toNat + n + 1) % 65536 else i.toNat := by
  cases increments
  · rfl
  · simp only [indexAfter, if_true, BitVec.toNat_add, BitVec.toNat_ofNat]
    omega

/-! ## Where an access at I fails (R259) -/

/-- An access at I that runs past 0xFFF, every address of it inside memory being good, fails at 0x1000, or at I when I
itself lies past it. -/
theorem firstBad_past_memory {ok : Nat → Bool} {s : State} {n : Nat} (hbad : ∀ a, 0xFFF < a → ok a = false)
    (hok : ∀ a, s.i.toNat ≤ a → a ≤ 0xFFF → ok a = true) (hout : 0xFFF < s.i.toNat + n) :
    firstBad ok (ea s) (n + 1) = some (max (ea s 0) 0x1000) := by
  have hfirst : max (ea s 0) 0x1000 = ea s (0x1000 - s.i.toNat) := by
    simp only [ea_eq]
    omega
  rw [hfirst]
  refine firstBad_eq_some (by omega) (hbad _ ?_) fun j hj => hok _ ?_ ?_ <;> rw [ea_eq] <;> omega

theorem storeAtIndex_of_firstBad {protect : Bool} {eaOf : Nat → Nat} {n a : Nat}
    (h : firstBad (writable protect) eaOf n = some a) (ins : Instr) (f : Nat → Byte) (i' : Word) (s : State) :
    storeAtIndex protect ins eaOf f n i' s = raise .outOfBounds ins (some a) s := by
  rw [storeAtIndex, h]

theorem loadAtIndex_of_firstBad {eaOf : Nat → Nat} {n a : Nat} (h : firstBad readable eaOf n = some a) (ins : Instr)
    (i' : Word) (s : State) : loadAtIndex ins eaOf n i' s = raise .outOfBounds ins (some a) s := by
  rw [loadAtIndex, h]

/-! ## A store at I -/

section Store

variable {ins : Instr} {f : Nat → Byte} {n : Nat} {i' : Word} {s : State}
  (h : exec ins s = .next (storeAtIndex protectLowMemory ins (ea s) f (n + 1) i' s))
include h

/-- R193, R194: a store of `n + 1` bytes inside the writable region leaves byte `k` at `I + k`, I, pc and the frame. -/
theorem completes_of_storeAtIndex {parts : List Part} (hm : .memory ∈ parts) (hi : .index ∉ parts → i' = s.i)
    (hwf : s.mem.wf = true) (hlow : 0x200 ≤ s.i.toNat) (hin : s.i.toNat + n ≤ 0xFFF) :
    Completes ins s fun t =>
      (∀ k, k ≤ n → t.mem.read (ea s k) = f k) ∧
      (∀ a, (∀ k, k ≤ n → a ≠ ea s k) → t.mem.read a = s.mem.read a) ∧
      t.i = i' ∧ t.pc = s.pc + 2#16 ∧ OnlyChanges parts [] s t := by
  have hok : ∀ k, k < n + 1 → writable protectLowMemory (ea s k) = true := fun k hk =>
    (writable_iff _ _).2 (by rw [ea_eq]; exact ⟨by omega, fun _ => by omega⟩)
  obtain ⟨hstored, hkept⟩ := read_storeBytes_ea hwf f (n := n + 1) fun k hk => by omega
  rw [storeAtIndex_of_writable hok] at h
  simp only [Nat.lt_succ_iff, ← ea_eq s] at hstored hkept
  exact ⟨_, h, hstored, hkept, rfl, rfl, (((onlyChanges_refl parts [] s).setMem hm _).setI hi).advance⟩

/-- R53, R193, R194: a store fails at I when I lies below 0x200, and at the first address past 0xFFF. No store of at most
sixteen bytes does both. -/
theorem failsWith_of_storeAtIndex (hn : n ≤ 0xF) :
    (s.i.toNat < 0x200 → FailsWith ins s .outOfBounds (some (ea s 0))) ∧
    (0xFFF < s.i.toNat + n → FailsWith ins s .outOfBounds (some (max (ea s 0) 0x1000))) := by
  constructor
  · intro hlow
    have hbad : writable protectLowMemory (ea s 0) = false := (not_writable_iff _).2 (.inr (by rwa [ea_eq]))
    rw [storeAtIndex_of_firstBad (firstBad_eq_some (Nat.succ_pos n) hbad nofun)] at h
    exact h
  · intro hout
    have hbad : ∀ a, 0xFFF < a → writable protectLowMemory a = false := fun a ha => (not_writable_iff a).2 (.inl ha)
    have hok : ∀ a, s.i.toNat ≤ a → a ≤ 0xFFF → writable protectLowMemory a = true := fun a hlo hhi =>
      (writable_iff _ a).2 ⟨by omega, fun _ => by omega⟩
    rw [storeAtIndex_of_firstBad (firstBad_past_memory hbad hok hout)] at h
    exact h

end Store

/-- R193: the digits of a byte are digits, so none of them wraps. -/
theorem bcdDigit_toNat (b : Byte) :
    (bcdDigit b 0).toNat = b.toNat / 100 ∧ (bcdDigit b 1).toNat = b.toNat / 10 % 10 ∧ (bcdDigit b 2).toNat = b.toNat % 10 :=
  ⟨Nat.mod_eq_of_lt (by omega), Nat.mod_eq_of_lt (by omega), Nat.mod_eq_of_lt (by omega)⟩

/-! ## A load at I -/

/-- R195: FX65 with every address inside memory. -/
theorem exec_ldLoad_of_readable {x : Nibble} {s : State} (hin : s.i.toNat + x.toNat ≤ 0xFFF) :
    exec (.ldLoad x) s = .next (advance (setI (indexAfter (quirks s).loadStoreIncrementsIndex s.i (registerCount x))
      (loadRegisters (fun k => s.mem.read (ea s k)) (registerCount x) s))) := by
  refine congrArg _ (loadAtIndex_of_readable (fun k hk => (readable_iff _).2 ?_) _ _ s)
  rw [registerCount] at hk
  rw [ea_eq]
  omega

/-- R195: what the copy makes of the registers, up to V[X] and above it. -/
theorem getV_loadRegisters_registerCount (f : Nat → Byte) (x r : Nibble) (s : State) :
    getV (loadRegisters f (registerCount x) s) r = if r.toNat ≤ x.toNat then f r.toNat else getV s r := by
  rw [getV_loadRegisters f s r (registerCount x) x.isLt]
  simp only [registerCount, Nat.lt_succ_iff]

/-- R23, R195: a successful FX65 changes I, the registers it names and pc. -/
theorem onlyChanges_ldLoad (f : Nat → Byte) (x : Nibble) (i' : Word) (s : State) :
    OnlyChanges [.index] (writtenRegisters (.ldLoad x)) s (advance (setI i' (loadRegisters f (registerCount x) s))) := by
  have loaded := (onlyChanges_refl [.index] (writtenRegisters (.ldLoad x)) s).loadRegisters f (n := registerCount x)
    fun k hk => List.mem_map_of_mem (List.mem_range.2 hk)
  exact (loaded.setI (absurd List.mem_cons_self)).advance

/-! ## The obligations -/

/-- Settles O44: both are loads of I, of NNN zero-extended and of a sum. -/
theorem indexLoadsAndAdds : Obligations.IndexLoadsAndAdds := by
  refine ⟨fun nnn s => ?_, fun x s => ?_⟩
  · obtain ⟨t, ht, hi, hrest⟩ := completes_of_setI (i := .ldI nnn) (s := s) rfl
    exact ⟨t, ht, by rw [hi, zext16_toNat], hrest⟩
  · obtain ⟨t, ht, hi, hrest⟩ := completes_of_setI (i := .addI x) (s := s) rfl
    exact ⟨t, ht, by rw [hi, add_byte_toNat], hrest⟩

/-- Settles O45: a load of I, of a glyph's address. -/
theorem fontAddressIsBasePlusFiveTimesTheDigit : Obligations.FontAddressIsBasePlusFiveTimesTheDigit := by
  intro x s
  obtain ⟨t, ht, hi, hrest⟩ := completes_of_setI (i := .ldF x) (s := s) rfl
  exact ⟨t, ht, by rw [hi, glyphAddress_toNat, lowNibble_toNat], hrest⟩

/-- Settles O46: a store of the three digits at I, that leaves I. -/
theorem bcdStoresThreeDigitsOrFails : Obligations.BcdStoresThreeDigitsOrFails := by
  intro x s hwf
  refine ⟨fun hlow hin => ?_, failsWith_of_storeAtIndex rfl (by decide)⟩
  obtain ⟨t, ht, hstored, hkept, -, hrest⟩ :=
    completes_of_storeAtIndex (n := 2) (ins := .ldB x) rfl (List.mem_singleton_self Part.memory) (fun _ => rfl) hwf hlow hin
  obtain ⟨hundreds, tens, ones⟩ := bcdDigit_toNat (getV s x)
  refine ⟨t, ht, ?_, ?_, ?_, fun a h0 h1 h2 => hkept a fun k hk => ?_, hrest⟩
  · rw [hstored 0 (by decide), hundreds]
  · rw [hstored 1 (by decide), tens]
  · rw [hstored 2 (by decide), ones]
  · obtain rfl | rfl | rfl : k = 0 ∨ k = 1 ∨ k = 2 := by omega
    · exact h0
    · exact h1
    · exact h2

/-- Settles O47: a store of V0 to VX at I. -/
theorem registerStoreWritesV0ToVxOrFails : Obligations.RegisterStoreWritesV0ToVxOrFails := by
  intro x s hwf
  refine ⟨fun hlow hin => ?_, failsWith_of_storeAtIndex rfl (Nat.le_of_lt_succ x.isLt)⟩
  obtain ⟨t, ht, hstored, hkept, hi, hrest⟩ := completes_of_storeAtIndex (n := x.toNat) (ins := .ldStore x) rfl
    (parts := [.memory, .index]) (by simp) (absurd (by simp)) hwf hlow hin
  refine ⟨t, ht, fun r hr => ?_, hkept, by rw [hi, registerCount, indexAfter_toNat], hrest⟩
  rw [hstored r.toNat hr, BitVec.ofNat_toNat, BitVec.setWidth_eq]

/-- Settles O48: by whether the last address lies inside memory, the copy to V0 to VX or the failure. -/
theorem registerLoadReadsV0ToVxOrFails : Obligations.RegisterLoadReadsV0ToVxOrFails := by
  intro x s
  refine ⟨fun hin => ⟨_, exec_ldLoad_of_readable hin, fun r hr => ?_, fun r hr => ?_, ?_, ?_, onlyChanges_ldLoad _ x _ s⟩,
    fun hout => congrArg _ (loadAtIndex_of_firstBad (firstBad_past_memory ?_ ?_ hout) _ _ s)⟩
  · rw [getV_advance, getV_setI, getV_loadRegisters_registerCount, if_pos hr]
  · rw [getV_advance, getV_setI, getV_loadRegisters_registerCount, if_neg (Nat.not_le.2 hr)]
  · rw [advance_i, setI_i, registerCount, indexAfter_toNat]
  · rw [advance_pc, setI_pc, loadRegisters_pc]
  · exact fun a ha => (not_readable_iff a).2 ha
  · exact fun a _ ha => (readable_iff a).2 (Nat.lt_succ_of_le ha)

end Sys2Proof.Machine
end

section
/-! Display (R210-R216): the pixels a DXYN covers, what a draw onto a frame and a second one over it make of them, and where
a draw fails. -/

namespace Sys2Proof.Machine

/-! ## The covered pixels -/

/-- The pixels that DXYN covers when it is executed in `s` (R211, R212), in the words of the obligations. -/
def DrawCovers (x y n : Nibble) (s : State) (px : Fin 64) (py : Fin 32) : Prop :=
  SpriteCovers (quirks s).drawWrapsAtEdges ((getV s x).toNat % 64) ((getV s y).toNat % 32) (fun j => s.mem.read (ea s j))
    n.toNat px.val py.val

/-- R212, R216: the covered pixels depend on nothing but the session, I, the two coordinates and memory. -/
theorem drawCovers_congr {x y : Nibble} {s u : State} (hsession : u.session = s.session) (hi : u.i = s.i)
    (hx : getV u x = getV s x) (hy : getV u y = getV s y) (hmem : ∀ a, u.mem.read a = s.mem.read a) (n : Nibble) :
    DrawCovers x y n u = DrawCovers x y n s := by
  funext px py
  simp only [DrawCovers, quirks, ea_eq, hsession, hi, hx, hy, hmem]

/-- The loop of R212 toggles the pixels its sprite covers and notes the collision among them. -/
theorem drawSprite_blits (x y n : Nibble) (s : State) :
    Blits (DrawCovers x y n s) { fb := s.fb, hit := false } (drawSprite (quirks s).drawWrapsAtEdges (ea s) x y n s) := by
  have hrows := drawRows_blits (quirks s).drawWrapsAtEdges (originColumn (getV s x)) (originRow (getV s y))
    (fun j => s.mem.read (ea s j)) n.toNat (by omega) { fb := s.fb, hit := false }
  simp only [screenTarget_eq_some] at hrows
  exact hrows

/-! ## What one pass of the blitter, and a second one over it, make of a frame -/

section Passes

variable {cov : Fin 64 → Fin 32 → Prop} {fb : Frame} {d e : Canvas}

/-- The covered pixels are the ones a pass changes. -/
theorem Blits.covers_iff_toggled (h : Blits cov { fb := fb, hit := false } d) (px : Fin 64) (py : Fin 32) :
    cov px py ↔ pixel d.fb px py = !(pixel fb px py) := by
  refine ⟨h.covered px py, fun htoggled => Classical.byContradiction fun hcov => ?_⟩
  exact (Bool.eq_not_self _).1 ((h.uncovered px py hcov).symm.trans htoggled)

/-- R212: a pass that starts without a collision notes one exactly when it covers a set pixel. -/
theorem Blits.hit_iff_covers_set (h : Blits cov { fb := fb, hit := false } d) :
    d.hit = true ↔ ∃ px py, cov px py ∧ pixel fb px py = true :=
  h.collision.trans (or_iff_right Bool.false_ne_true)

/-- R212: that is, exactly when some pixel goes from set to unset. -/
theorem Blits.hit_iff_unsets (h : Blits cov { fb := fb, hit := false } d) :
    d.hit = true ↔ ∃ px py, pixel fb px py = true ∧ pixel d.fb px py = false := by
  refine h.hit_iff_covers_set.trans (exists₂_congr fun px py => ?_)
  rw [h.covers_iff_toggled, and_comm]
  exact and_congr_right fun hset => by rw [hset, Bool.not_true]

/-- R216: a second pass over the frame that the first left restores every pixel. -/
theorem Blits.second_restores (h : Blits cov { fb := fb, hit := false } d) (h' : Blits cov { fb := d.fb, hit := false } e)
    (px : Fin 64) (py : Fin 32) : pixel e.fb px py = pixel fb px py := by
  by_cases hcov : cov px py
  · rw [h'.covered px py hcov, h.covered px py hcov, Bool.not_not]
  · rw [h'.uncovered px py hcov, h.uncovered px py hcov]

/-- The second pass collides exactly when the first covered an unset pixel: it finds that one set and unsets it (R212). -/
theorem Blits.second_hit_iff (h : Blits cov { fb := fb, hit := false } d) (h' : Blits cov { fb := d.fb, hit := false } e) :
    e.hit = true ↔ ∃ px py, pixel fb px py = false ∧ cov px py := by
  refine h'.hit_iff_covers_set.trans (exists₂_congr fun px py => ?_)
  rw [and_comm (b := cov px py)]
  exact and_congr_right fun hcov => by rw [h.covered px py hcov, Bool.not_eq_true']

end Passes

/-! ## DXYN as a whole -/

theorem flagByte_eq_one_iff {c : Bool} : flagByte c = 1#8 ↔ c = true := by cases c <;> decide

theorem flagByte_eq_one_or_zero (c : Bool) : flagByte c = 1#8 ∨ flagByte c = 0#8 := by cases c <;> decide

theorem draw_of_firstBad {eaOf : Nat → Nat} {n : Nibble} {a : Nat} (h : firstBad readable eaOf n.toNat = some a)
    (wraps : Bool) (x y : Nibble) (s : State) : draw wraps eaOf x y n s = raise .outOfBounds (.drw x y n) (some a) s := by
  rw [draw, h]

/-- R212, R213: DXYN with no row, or with every row inside memory. -/
theorem exec_drw_of_readable {x y n : Nibble} {s : State} (hin : n = 0#4 ∨ s.i.toNat + n.toNat ≤ 0x1000) :
    exec (.drw x y n) s = .next (advance (setFlag (drawSprite (quirks s).drawWrapsAtEdges (ea s) x y n s).hit
      (setFb (drawSprite (quirks s).drawWrapsAtEdges (ea s) x y n s).fb s))) := by
  refine congrArg _ (draw_of_readable (fun k hk => (readable_iff _).2 ?_) _ x y s)
  rw [ea_eq]
  obtain rfl | hin := hin
  · exact absurd hk (Nat.not_lt_zero k)
  · omega

/-- R211-R214: such a DXYN is one pass of the blitter over the pixels it covers, with the collision in VF. -/
theorem completes_drw {x y n : Nibble} {s : State} (hin : n = 0#4 ∨ s.i.toNat + n.toNat ≤ 0x1000) :
    Completes (.drw x y n) s fun t =>
      ∃ c, Blits (DrawCovers x y n s) { fb := s.fb, hit := false } c ∧ t.fb = c.fb ∧ getV t vf = flagByte c.hit ∧
        t.pc = s.pc + 2#16 ∧ OnlyChanges [.screen] [vf] s t := by
  have hframe := (onlyChanges_refl [.screen] [vf] s).setFb List.mem_cons_self
    (drawSprite (quirks s).drawWrapsAtEdges (ea s) x y n s).fb
  refine ⟨_, exec_drw_of_readable hin, _, drawSprite_blits x y n s, rfl, ?_, rfl,
    (hframe.setV List.mem_cons_self _).advance⟩
  rw [getV_advance, getV_setFlag, if_pos rfl]

/-- R212, R213, R259: a DXYN with a row past 0xFFF fails at the first address there. -/
theorem failsWith_drw {x y n : Nibble} {s : State} (hn : n ≠ 0#4) (hout : 0x1000 < s.i.toNat + n.toNat) :
    FailsWith (.drw x y n) s .outOfBounds (some (max (ea s 0) 0x1000)) := by
  obtain ⟨rows, hrows⟩ : ∃ rows, n.toNat = rows + 1 :=
    Nat.exists_eq_succ_of_ne_zero fun h => hn (BitVec.eq_of_toNat_eq h)
  have hbad : firstBad readable (ea s) n.toNat = some (max (ea s 0) 0x1000) := by
    rw [hrows]
    exact firstBad_past_memory (fun a ha => (not_readable_iff a).2 ha)
      (fun a _ ha => (readable_iff a).2 (Nat.lt_succ_of_le ha)) (by omega)
  exact congrArg _ (draw_of_firstBad hbad _ x y s)

/-- R213: DXY0 writes 0 to VF and advances. -/
theorem exec_drw_noRows (x y : Nibble) (s : State) : exec (.drw x y 0#4) s = .next (advance (setV s vf 0#8)) := rfl

/-! ## The obligations -/

/-- Settles O50: the blank frame is written. -/
theorem clearScreenClearsEveryPixel : Obligations.ClearScreenClearsEveryPixel := fun s =>
  ⟨advance (setFb blankFrame s), rfl, pixel_blankFrame, rfl,
    ((onlyChanges_refl [.screen] [] s).setFb List.mem_cons_self _).advance⟩

/-- Settles O52: with no row DXYN is a load of VF. -/
theorem drawOfNoRowsOnlyClearsVf : Obligations.DrawOfNoRowsOnlyClearsVf := fun x y s =>
  completes_of_setV (exec_drw_noRows x y s)

/-- Settles O51, by whether every row lies inside memory: one pass of the blitter, or the failure. -/
theorem drawTogglesCoveredPixelsAndFlagsCollision : Obligations.DrawTogglesCoveredPixelsAndFlagsCollision := by
  refine fun x y n s => ⟨fun hin => ?_, failsWith_drw⟩
  obtain ⟨t, ht, c, hblits, hfb, hflag, hrest⟩ := completes_drw (x := x) (y := y) hin
  refine ⟨t, ht, fun px py => ?_, ?_, ?_, hrest⟩
  · rw [hfb]
    exact ⟨hblits.covered px py, hblits.uncovered px py⟩
  · rw [hflag]
    exact flagByte_eq_one_or_zero c.hit
  · rw [hfb, hflag, flagByte_eq_one_iff]
    exact hblits.hit_iff_unsets

/-- Settles O53: the second draw is a second pass over the same pixels. -/
theorem drawingTwiceRestoresTheScreen : Obligations.DrawingTwiceRestoresTheScreen := by
  intro x y n s t u hin ht hfb hi hx hy hmem hsession
  obtain ⟨c, hfirst, htfb, -⟩ := (completes_drw hin).post ht
  obtain ⟨u', hu', c', hsecond, hu'fb, hflag, -⟩ := completes_drw (x := x) (y := y) (n := n) (s := u) (hi ▸ hin)
  rw [drawCovers_congr hsession hi hx hy hmem, hfb, htfb] at hsecond
  have hvf : getV u' vf = 1#8 ↔ ∃ px py, pixel s.fb px py = false ∧ DrawCovers x y n s px py := by
    rw [hflag, flagByte_eq_one_iff]
    exact hfirst.second_hit_iff hsecond
  refine ⟨u', hu', fun px py => ?_, hvf, fun hunset => ⟨fun h => ?_, fun hcov => hvf.2 (hunset hcov)⟩⟩
  · rw [hu'fb]
    exact hfirst.second_restores hsecond px py
  · obtain ⟨px, py, -, hcov⟩ := hvf.1 h
    exact ⟨px, py, hcov⟩

/-! ## The sprite over a set pixel (log entry 12) -/

/-- Pixel (0, 0) is set and no other; I is at the one-row sprite 0x80, whose single 1-bit lands there. -/
def spriteOverSetPixel : State := setFb (togglePixel blankFrame 0 0) (setMem [(0x300, 0x80#8)] (setI 0x300#16 State.reset))

/-- R212: the first D001 unsets the pixel and the second sets it again, with VF 0, under either value of the quirk. -/
theorem second_draw_over_set_pixel_clears_vf (wraps : Bool) : let s := spriteOverSetPixel
    getV (draw wraps (ea s) 0x0#4 0x0#4 0x1#4 (setFb (draw wraps (ea s) 0x0#4 0x0#4 0x1#4 s).fb s)) vf = 0#8 := by
  cases wraps <;> decide

theorem drawCovers_spriteOverSetPixel : DrawCovers 0x0#4 0x0#4 0x1#4 spriteOverSetPixel 0 0 :=
  ⟨0, 0, by decide, by decide, by decide, by split <;> decide⟩

/-- Refutes O54: on the sprite over a set pixel the second draw ends with VF = 0, though the sprite's 1-bit is drawn. -/
theorem not_secondDrawFlagsEveryDrawnSprite : ¬ Obligations.SecondDrawFlagsEveryDrawnSprite := by
  intro h
  have hvf := h 0x0#4 0x0#4 0x1#4 spriteOverSetPixel _ (setFb _ spriteOverSetPixel) _ rfl rfl rfl rfl rfl rfl (fun _ => rfl)
    rfl rfl
  have hone := hvf.2 ⟨0, 0, drawCovers_spriteOverSetPixel⟩
  have hzero := second_draw_over_set_pixel_clears_vf (quirks spriteOverSetPixel).drawWrapsAtEdges
  exact absurd (hzero.symm.trans hone) (by decide)

end Sys2Proof.Machine
end

section
/-! Keypad and timer instructions (R231-R236): the key that a skip tests, the entry into the key wait, and the copies between
a register and a timer. -/

namespace Sys2Proof.Machine

/-- R231, R232: the key that EX9E and EXA1 test is the one V[X] mod 16 numbers. -/
theorem lowNibble_eq_of_toNat_eq {b : Byte} {k : Nibble} (hk : k.toNat = b.toNat % 16) : lowNibble b = k :=
  BitVec.eq_of_toNat_eq ((lowNibble_toNat b).trans hk.symm)

theorem exec_skp {x k : Nibble} {s : State} (hk : k.toNat = (getV s x).toNat % 16) :
    exec (.skp x) s = .next (skipIf (keyPressed s k) s) := by
  rw [← lowNibble_eq_of_toNat_eq hk]; rfl

theorem exec_sknp {x k : Nibble} {s : State} (hk : k.toNat = (getV s x).toNat % 16) :
    exec (.sknp x) s = .next (skipIf (!keyPressed s k) s) := by
  rw [← lowNibble_eq_of_toNat_eq hk]; rfl

/-- What an instruction that writes `b` to DT and advances leaves: DT, pc and the frame. -/
theorem completes_of_setDt {i : Instr} {s : State} {b : Byte} (h : exec i s = .next (advance (setDt b s))) :
    Completes i s fun t => t.dt = b ∧ t.pc = s.pc + 2#16 ∧ OnlyChanges [.delay] [] s t :=
  ⟨_, h, setDt_dt b s, rfl, ((onlyChanges_refl [.delay] [] s).setDt List.mem_cons_self b).advance⟩

/-- The same for ST. -/
theorem completes_of_setSt {i : Instr} {s : State} {b : Byte} (h : exec i s = .next (advance (setSt b s))) :
    Completes i s fun t => t.st = b ∧ t.pc = s.pc + 2#16 ∧ OnlyChanges [.sound] [] s t :=
  ⟨_, h, setSt_st b s, rfl, ((onlyChanges_refl [.sound] [] s).setSt List.mem_cons_self b).advance⟩

/-! ## The obligations -/

/-- Settles O56: both are skips on the state of the low nibble's key, EXA1 on its negation. -/
theorem keySkipsTestTheLowNibbleKey : Obligations.KeySkipsTestTheLowNibbleKey := fun _ _ _ hk =>
  ⟨completes_of_skipIf (exec_skp hk) Iff.rfl, completes_of_skipIf (exec_sknp hk) (Iff.of_eq (Bool.not_eq_true' _))⟩

/-- Settles O57: the state after FX0A is the one before with another driver state and an empty latch. -/
theorem keyWaitEntersWithoutAdvancing : Obligations.KeyWaitEntersWithoutAdvancing := fun x s =>
  ⟨_, exec_ldK x s, setDriver_pending _ _ s, setDriver_drv _ _ s, setDriver_pc _ _ s,
    (onlyChanges_refl [.driver, .latch] [] s).setDriver (by simp) (by simp) _ _⟩

/-- Settles O58: FX07 is a load of V[X], FX15 a load of DT and FX18 a load of ST. -/
theorem timerInstructionsCopyOneByte : Obligations.TimerInstructionsCopyOneByte := fun _ _ =>
  ⟨completes_of_setV rfl, completes_of_setDt rfl, completes_of_setSt rfl⟩

end Sys2Proof.Machine
end

section
/-! The errors (60_exceptions.md): how an instruction fails when its failure condition holds, what a failing step leaves, the
bound on nested calls, and the refused load. -/

namespace Sys2Proof.Machine

/-! ## How an instruction fails -/

/-- R259: an access with a bad address among its first `n` has a lowest one. -/
theorem exists_firstBad {ok : Nat → Bool} {eaOf : Nat → Nat} {n k : Nat} (hk : k < n) (hbad : ok (eaOf k) = false) :
    ∃ a, firstBad ok eaOf n = some a :=
  Option.ne_none_iff_exists'.1 fun h => Bool.false_ne_true (hbad.symm.trans (firstBad_none.1 h k hk))

/-- R251-R254, R257: an instruction whose failure condition holds raises OutOfBounds with an address, or another kind of error
without one; RomTooLarge is never raised by an instruction. -/
theorem failsWith_of_failureCondition {i : Instr} {s : State} (h : FailureCondition i s) :
    (∃ a, FailsWith i s .outOfBounds (some a)) ∨
    (∃ kind, kind ≠ .outOfBounds ∧ kind ≠ .romTooLarge ∧ FailsWith i s kind none) := by
  cases i with
  | cls | jp | seImm | sneImm | seReg | ldImm | addImm | ldReg | or | and | xor | addReg | sub | shr | subn | shl | sneReg
  | ldI | jpOff | rnd | skp | sknp | ldFromDt | ldK | ldDt | ldSt | addI | ldF => exact h.elim
  | sys nnn => exact .inr ⟨.unknownOpcode, by decide, by decide, exec_sys nnn s⟩
  | ret => exact .inr ⟨.stackUnderflow, by decide, by decide, exec_ret_empty h⟩
  | call nnn => exact .inr ⟨.stackOverflow, by decide, by decide, exec_call_full nnn (Nat.not_lt.2 h)⟩
  | drw x y n =>
    obtain ⟨k, hk, hbad⟩ := h
    obtain ⟨a, ha⟩ := exists_firstBad hk ((not_readable_iff _).2 hbad)
    exact .inl ⟨a, congrArg _ (draw_of_firstBad ha _ x y s)⟩
  | ldB =>
    obtain ⟨k, hk, hbad⟩ := h
    obtain ⟨a, ha⟩ := exists_firstBad hk ((not_writable_iff _).2 hbad)
    exact .inl ⟨a, congrArg _ (storeAtIndex_of_firstBad ha _ _ _ s)⟩
  | ldStore =>
    obtain ⟨k, hk, hbad⟩ := h
    obtain ⟨a, ha⟩ := exists_firstBad (Nat.lt_succ_of_le hk) ((not_writable_iff _).2 hbad)
    exact .inl ⟨a, congrArg _ (storeAtIndex_of_firstBad ha _ _ _ s)⟩
  | ldLoad =>
    obtain ⟨k, hk, hbad⟩ := h
    obtain ⟨a, ha⟩ := exists_firstBad (Nat.lt_succ_of_le hk) ((not_readable_iff _).2 hbad)
    exact .inl ⟨a, congrArg _ (loadAtIndex_of_firstBad ha _ _ s)⟩

/-- An instruction that takes the driver from Ready to Halted met its failure condition. -/
theorem failureCondition_of_halted {i : Instr} {s t : State} {e : ErrorRecord} (hdrv : s.drv = .ready)
    (h : exec i s = .next t) (ht : t.drv = .halted e) : FailureCondition i s := by
  cases (exec_driverAfter i s).post h with
  | halts failure => exact failure
  | waits x _ hwait => cases hwait.symm.trans ht
  | stays _ _ hstay => cases hdrv.symm.trans (hstay.symm.trans ht)

/-! ## Calls one after the other -/

theorem execAll_cons {i : Instr} {rest : List Instr} {s t : State} (h : exec i s = .next t) :
    execAll (i :: rest) s = execAll rest t := by
  simp only [execAll, h]

/-- R164, R253: calls for which the stack has room succeed and leave one more entry each. -/
theorem execAll_calls (targets : List Addr12) {s : State} (hroom : s.stack.length + targets.length ≤ 16) :
    ∃ t, execAll (targets.map Instr.call) s = .next t ∧ t.stack.length = s.stack.length + targets.length ∧
      t.drv = s.drv := by
  induction targets generalizing s with
  | nil => exact ⟨s, rfl, rfl, rfl⟩
  | cons nnn rest ih =>
    rw [List.length_cons] at hroom
    have hcall := exec_call_room nnn (s := s) (by omega)
    obtain ⟨t, hrun, hdepth, hdrv⟩ :=
      ih (s := jumpTo (zext16 nnn) (setStack ((s.pc + 2#16) :: s.stack) s)) (by
        simp only [jumpTo_stack, setStack_stack, List.length_cons]; omega)
    refine ⟨t, (execAll_cons hcall).trans hrun, ?_, hdrv⟩
    simp only [jumpTo_stack, setStack_stack, List.length_cons] at hdepth ⊢
    omega

/-! ## The obligations -/

/-- Settles O9, by the three ways a step in Ready can fail: the fetch, the decoding, the instruction's own check. -/
theorem errorsArePrecise : Obligations.ErrorsArePrecise := by
  intro s t e hdrv hstep he
  cases hfetch : fetchWord s with
  | error a =>
    cases (step_of_fetch_error hdrv hfetch).symm.trans hstep
    cases he
    exact ⟨rfl, rfl, nofun, fun _ _ => rfl, by simp, by simp⟩
  | ok w =>
    cases hdec : decode w with
    | error d =>
      obtain rfl := decode_error hdec
      cases (step_of_decode_error hdrv hfetch hdec).symm.trans hstep
      cases he
      exact ⟨rfl, rfl, fun _ hw => by cases hw; rfl, nofun, by simp, by simp⟩
    | ok i =>
      rw [step_of_decode_ok hdrv hfetch hdec] at hstep
      obtain ⟨rfl, -⟩ := encode_of_decode hdec
      obtain ⟨a, hfail⟩ | ⟨kind, hkind, hrom, hfail⟩ :=
        failsWith_of_failureCondition (failureCondition_of_halted hdrv hstep he) <;>
        cases hfail.symm.trans hstep <;> cases he
      · exact ⟨rfl, rfl, fun _ hw => by cases hw; rfl, nofun, by simp, by simp⟩
      · exact ⟨rfl, rfl, fun _ hw => by cases hw; rfl, nofun, by simpa using hkind, hrom⟩

/-- Settles O35, by induction on the targets: sixteen calls from an empty stack leave sixteen entries. -/
theorem sixteenCallsNestAndTheNextOverflows : Obligations.SixteenCallsNestAndTheNextOverflows := by
  have hnest : ∀ (targets : List Addr12) (s : State), s.stack = [] → targets.length ≤ 16 →
      ∃ t, execAll (targets.map Instr.call) s = .next t ∧ t.stack.length = targets.length ∧ t.drv = s.drv := by
    intro targets s hempty hlen
    simpa [hempty] using execAll_calls targets (s := s) (by simpa [hempty] using hlen)
  obtain ⟨-, hoverflow⟩ := callPushesTheNextAddress
  refine ⟨hoverflow, hnest, fun targets nnn s hempty hlen => ?_⟩
  obtain ⟨t, hrun, hdepth, -⟩ := hnest targets s hempty (Nat.le_of_eq hlen)
  exact ⟨t, hrun, hoverflow nnn t (hdepth.trans hlen)⟩

/-- Settles O19: of the two ways of a load, the refused one. -/
theorem tooLongLoadChangesNothing : Obligations.TooLongLoadChangesNothing := by
  intro rom s hlong
  obtain ⟨hlen, -⟩ | ⟨-, -, hrefused⟩ := transact_load rom s
  · exact absurd hlong (Nat.not_lt.2 hlen)
  · exact hrefused

end Sys2Proof.Machine
end

section
/-! The register table (R23), the subtractions (R139, R141) and the random byte (R230). -/

namespace Sys2Proof.Machine

/-! ## The register table -/

/-- Settles O26, from the frame of every instruction. -/
theorem registersChangeOnlyAsTheTableNames : Obligations.RegistersChangeOnlyAsTheTableNames := by
  intro i s t r h hr
  obtain ⟨hregs, -⟩ := (exec_onlyChanges i s).post h
  exact hregs r hr

/-! ## The subtractions -/

theorem flagByte_noBorrow (a b : Byte) : flagByte (noBorrow a b) = if b.toNat ≤ a.toNat then 1#8 else 0#8 := by
  simp only [flagByte, noBorrow, decide_eq_true_eq]

/-- A byte difference is the integer difference modulo 256, also when it borrows. -/
theorem toNat_sub_emod (a b : Byte) : ((a - b).toNat : Int) = (a.toNat - b.toNat : Int) % 256 := by
  rw [BitVec.toNat_sub]
  omega

/-- R139, R141: what an instruction that writes `a - b` to `V[x]`, then no borrow to VF, and advances leaves. -/
theorem completes_of_difference {i : Instr} {s : State} {x : Nibble} {a b : Byte}
    (h : exec i s = .next (advance (setResultAndFlag x (a - b) (noBorrow a b) s))) :
    Completes i s fun t =>
      getV t vf = (if b.toNat ≤ a.toNat then 1#8 else 0#8) ∧
      (x ≠ vf → ((getV t x).toNat : Int) = (a.toNat - b.toNat : Int) % 256) ∧
      t.pc = s.pc + 2#16 ∧ OnlyChanges [] [x, vf] s t := by
  obtain ⟨t, ht, hflag, hdiff, hrest⟩ := completes_of_setResultAndFlag h
  exact ⟨t, ht, hflag.trans (flagByte_noBorrow a b), fun hx => by rw [hdiff hx, toNat_sub_emod], hrest⟩

/-- Settles O42: the same difference, with the operands exchanged in 8XY7. -/
theorem subtractsSetNoBorrow : Obligations.SubtractsSetNoBorrow := fun _ _ _ =>
  ⟨completes_of_difference rfl, completes_of_difference rfl⟩

/-! ## The random byte -/

/-- A byte under a mask has no bit outside it. -/
theorem and_mask_and_not_mask (b kk : Byte) : b &&& kk &&& ~~~kk = 0#8 := by
  rw [BitVec.and_assoc, BitVec.and_not_self]
  exact BitVec.and_zero

theorem exec_rnd (x : Nibble) (kk : Byte) (s : State) :
    exec (.rnd x kk) s = .next (advance (countDraw (setV s x (Config.randByte s.draws &&& kk)))) := rfl

/-- Settles O55: the draw is read at the counter's value before the step, masked and written, and the counter moves on. -/
theorem randomByteIsUnderTheMask : Obligations.RandomByteIsUnderTheMask := by
  intro x kk s
  have hdraw := getV_setV_same s x (Config.randByte s.draws &&& kk)
  have hframe := (onlyChanges_refl [.draws] [x] s).setV List.mem_cons_self (Config.randByte s.draws &&& kk)
  refine ⟨_, exec_rnd x kk s, hdraw, ?_, Nat.lt_succ_self s.draws, rfl, (hframe.countDraw List.mem_cons_self).advance⟩
  exact (congrArg (· &&& ~~~kk) hdraw).trans (and_mask_and_not_mask _ kk)

end Sys2Proof.Machine
end
